-- ==== Sys2Proof/Word.lean ====
section
/-! DEFINITION. The word types of the CHIP-8 core (00_scope.md R6 to R8): everything is unsigned. -/

namespace Sys2Proof

/-- A memory cell, a general register, a timer (R6: 8 bits). -/
abbrev Byte := BitVec 8

/-- An opcode, PC, I, a stack entry (R6: 16 bits). -/
abbrev Word := BitVec 16

/-- A 4-bit field of an opcode: a register number, a key number, a row count (30_encoding.md R44). -/
abbrev Nibble := BitVec 4

/-- The 12-bit address field NNN (30_encoding.md R44). -/
abbrev Addr12 := BitVec 12

end Sys2Proof
end

