-- ==== Sys2Proof/Config.lean ====
section
/-! DEFINITION. The implementation parameters of 00_scope.md R6 that are fixed values of this hardware.
The font's 80 bytes (the parameter FONT) stand in Sys2Proof/Machine/Font.lean. No parameter is a free value:
the spec defines the result of every instruction. -/

namespace Sys2Proof.Config

/-- MEM_SIZE: addresses 0x000 to 0xFFF (R6, 20_memory.md R31). -/
def memSize : Nat := 4096

/-- STACK_DEPTH: return addresses the call stack holds (R6, 10_state.md R20). -/
def stackDepth : Nat := 12

/-- DISP_W: columns of the display (R6, 10_state.md R23). -/
def dispW : Nat := 64

/-- DISP_H: rows of the display (R6, 10_state.md R23). -/
def dispH : Nat := 32

/-- ROM_BASE: where the ROM is loaded and the reset value of PC (R6, 10_state.md R18). -/
def romBase : Nat := 0x200

/-- ROM_MAX: the longest ROM that loads, 4096 - 0x200 bytes (R6, 70_reset_and_hazards.md R116). -/
def romMax : Nat := 3584

end Sys2Proof.Config
end

