-- ==== Sys2Proof/Syntax.lean ====
section
/-! DEFINITION. The instructions: one constructor per row of spec/opcode_table.json, in its order, with the
fields of 30_encoding.md R44 that the row leaves free. A no-op row keeps the bits of its word that the row leaves
free (44_no_op.md R83: "the fields are decoded and ignored"; log entry 12). -/

namespace Sys2Proof

inductive Instr where
  /-- 00E0 (R76) -/
  | cls
  /-- 00EE (R55) -/
  | ret
  /-- 1NNN (R56) -/
  | jp (nnn : Addr12)
  /-- 2NNN (R57) -/
  | call (nnn : Addr12)
  /-- 3XNN (R58) -/
  | seVxNn (x : Nibble) (nn : Byte)
  /-- 4XNN (R59) -/
  | sneVxNn (x : Nibble) (nn : Byte)
  /-- 5XY0 (R60) -/
  | seVxVy (x y : Nibble)
  /-- 6XNN (R62) -/
  | ldVxNn (x : Nibble) (nn : Byte)
  /-- 7XNN (R63) -/
  | addVxNn (x : Nibble) (nn : Byte)
  /-- 8XY0 (R67) -/
  | ldVxVy (x y : Nibble)
  /-- 8XY1 (R68) -/
  | orVxVy (x y : Nibble)
  /-- 8XY2 (R69) -/
  | andVxVy (x y : Nibble)
  /-- 8XY3 (R70) -/
  | xorVxVy (x y : Nibble)
  /-- 8XY4 (R71) -/
  | addVxVy (x y : Nibble)
  /-- 8XY5 (R72) -/
  | subVxVy (x y : Nibble)
  /-- 8XY6 (R74); y is encoded and ignored -/
  | shrVx (x y : Nibble)
  /-- 8XY7 (R73) -/
  | subnVxVy (x y : Nibble)
  /-- 8XYE (R75); y is encoded and ignored -/
  | shlVx (x y : Nibble)
  /-- 9XY0 (R61) -/
  | sneVxVy (x y : Nibble)
  /-- ANNN (R64) -/
  | ldINnn (nnn : Addr12)
  /-- DXYN (R77) -/
  | drw (x y n : Nibble)
  /-- class 0, neither 00E0 nor 00EE (R84) -/
  | nop0nnn (nnn : Addr12)
  /-- 5XYn, n not 0 (R85) -/
  | nop5xyn (x y n : Nibble)
  /-- 8XY8 (R86) -/
  | nop8xy8 (x y : Nibble)
  /-- 8XY9 (R86) -/
  | nop8xy9 (x y : Nibble)
  /-- 8XYA (R86) -/
  | nop8xya (x y : Nibble)
  /-- 8XYB (R86) -/
  | nop8xyb (x y : Nibble)
  /-- 8XYC (R86) -/
  | nop8xyc (x y : Nibble)
  /-- 8XYD (R86) -/
  | nop8xyd (x y : Nibble)
  /-- 8XYF (R86) -/
  | nop8xyf (x y : Nibble)
  /-- 9XYn, n not 0 (R87) -/
  | nop9xyn (x y n : Nibble)
  /-- class B (R88) -/
  | nopBnnn (nnn : Addr12)
  /-- class C (R89) -/
  | nopCxnn (x : Nibble) (nn : Byte)
  /-- class E (R90) -/
  | nopExnn (x : Nibble) (nn : Byte)
  /-- class F (R91) -/
  | nopFxnn (x : Nibble) (nn : Byte)
  deriving DecidableEq, Repr

/-- The row's mnemonic in spec/opcode_table.json, letter for letter. -/
def Instr.mnemonic : Instr → String
  | .cls => "CLS"
  | .ret => "RET"
  | .jp _ => "JP"
  | .call _ => "CALL"
  | .seVxNn _ _ => "SE_VX_NN"
  | .sneVxNn _ _ => "SNE_VX_NN"
  | .seVxVy _ _ => "SE_VX_VY"
  | .ldVxNn _ _ => "LD_VX_NN"
  | .addVxNn _ _ => "ADD_VX_NN"
  | .ldVxVy _ _ => "LD_VX_VY"
  | .orVxVy _ _ => "OR"
  | .andVxVy _ _ => "AND"
  | .xorVxVy _ _ => "XOR"
  | .addVxVy _ _ => "ADD_VX_VY"
  | .subVxVy _ _ => "SUB"
  | .shrVx _ _ => "SHR"
  | .subnVxVy _ _ => "SUBN"
  | .shlVx _ _ => "SHL"
  | .sneVxVy _ _ => "SNE_VX_VY"
  | .ldINnn _ => "LD_I_NNN"
  | .drw _ _ _ => "DRW"
  | .nop0nnn _ => "NOP_0NNN"
  | .nop5xyn _ _ _ => "NOP_5XYN"
  | .nop8xy8 _ _ => "NOP_8XY8"
  | .nop8xy9 _ _ => "NOP_8XY9"
  | .nop8xya _ _ => "NOP_8XYA"
  | .nop8xyb _ _ => "NOP_8XYB"
  | .nop8xyc _ _ => "NOP_8XYC"
  | .nop8xyd _ _ => "NOP_8XYD"
  | .nop8xyf _ _ => "NOP_8XYF"
  | .nop9xyn _ _ _ => "NOP_9XYN"
  | .nopBnnn _ => "NOP_BNNN"
  | .nopCxnn _ _ => "NOP_CXNN"
  | .nopExnn _ _ => "NOP_EXNN"
  | .nopFxnn _ _ => "NOP_FXNN"

/-- Whether the spec's opcode map (30_encoding.md R50) lists the instruction; the others are the no-op spaces of
44_no_op.md R84 to R91. -/
def Instr.implemented : Instr → Bool
  | .cls | .ret | .jp _ | .call _ | .seVxNn _ _ | .sneVxNn _ _ | .seVxVy _ _ | .ldVxNn _ _ | .addVxNn _ _
  | .ldVxVy _ _ | .orVxVy _ _ | .andVxVy _ _ | .xorVxVy _ _ | .addVxVy _ _ | .subVxVy _ _ | .shrVx _ _
  | .subnVxVy _ _ | .shlVx _ _ | .sneVxVy _ _ | .ldINnn _ | .drw _ _ _ => true
  | .nop0nnn _ | .nop5xyn _ _ _ | .nop8xy8 _ _ | .nop8xy9 _ _ | .nop8xya _ _ | .nop8xyb _ _ | .nop8xyc _ _
  | .nop8xyd _ _ | .nop8xyf _ _ | .nop9xyn _ _ _ | .nopBnnn _ | .nopCxnn _ _ | .nopExnn _ _
  | .nopFxnn _ _ => false

end Sys2Proof
end

