-- ==== Sys2Proof/WellFormed.lean ====
section
/-! DEFINITION. The terms of Instr that are the decoding of some word: a no-op row does not hold the words that an
implemented row of the same class takes (44_no_op.md R84, R85, R87). -/

namespace Sys2Proof

/-- Well-formedness. Class 0 without 0x0E0 and 0x0EE (R84); classes 5 and 9 with a low nibble that is not 0 (R85, R87);
every other operand may hold every value. -/
def Instr.wellFormed : Instr → Bool
  | .nop0nnn nnn => nnn != 0x0E0#12 && nnn != 0x0EE#12
  | .nop5xyn _ _ n => n != 0#4
  | .nop9xyn _ _ n => n != 0#4
  | .cls | .ret | .jp _ | .call _ | .seVxNn _ _ | .sneVxNn _ _ | .seVxVy _ _ | .ldVxNn _ _ | .addVxNn _ _
  | .ldVxVy _ _ | .orVxVy _ _ | .andVxVy _ _ | .xorVxVy _ _ | .addVxVy _ _ | .subVxVy _ _ | .shrVx _ _
  | .subnVxVy _ _ | .shlVx _ _ | .sneVxVy _ _ | .ldINnn _ | .drw _ _ _
  | .nop8xy8 _ _ | .nop8xy9 _ _ | .nop8xya _ _ | .nop8xyb _ _ | .nop8xyc _ _
  | .nop8xyd _ _ | .nop8xyf _ _ | .nopBnnn _ | .nopCxnn _ _ | .nopExnn _ _ | .nopFxnn _ _ => true

end Sys2Proof
end

