-- ==== Sys2Proof/Decode.lean ====
section
/-! DEFINITION. The decoder (30_encoding.md R43 to R52), total on words and on bytes, and after it the encoder,
written from the same layouts. -/

namespace Sys2Proof

/-- The field record of 30_encoding.md R44: every field is present in every word. It lives inside one step only
(10_state.md R28). -/
structure Fields where
  opClass : Nibble
  x : Nibble
  y : Nibble
  n : Nibble
  nn : Byte
  nnn : Addr12
  deriving DecidableEq, Repr

/-- The decoder's "fixed bit-masking" (R44). -/
def fields (op : Word) : Fields where
  opClass := op.extractLsb' 12 4
  x := op.extractLsb' 8 4
  y := op.extractLsb' 4 4
  n := op.extractLsb' 0 4
  nn := op.extractLsb' 0 8
  nnn := op.extractLsb' 0 12

/-- Class 0: the whole word is compared (R49, decision D28), so the 12 bits below the class nibble are. -/
def decodeClass0 (nnn : Addr12) : Instr :=
  if nnn = 0x0E0#12 then .cls
  else if nnn = 0x0EE#12 then .ret
  else .nop0nnn nnn

/-- Class 8 selects on the low nibble (R49, R86). -/
def decodeClass8 (x y n : Nibble) : Instr :=
  match n.toNat with
  | 0x0 => .ldVxVy x y
  | 0x1 => .orVxVy x y
  | 0x2 => .andVxVy x y
  | 0x3 => .xorVxVy x y
  | 0x4 => .addVxVy x y
  | 0x5 => .subVxVy x y
  | 0x6 => .shrVx x y
  | 0x7 => .subnVxVy x y
  | 0x8 => .nop8xy8 x y
  | 0x9 => .nop8xy9 x y
  | 0xA => .nop8xya x y
  | 0xB => .nop8xyb x y
  | 0xC => .nop8xyc x y
  | 0xD => .nop8xyd x y
  | 0xE => .shlVx x y
  | _ => .nop8xyf x y

/-- Dispatch on a field record's class (R49). -/
def Fields.select (d : Fields) : Instr :=
  match d.opClass.toNat with
  | 0x0 => decodeClass0 d.nnn
  | 0x1 => .jp d.nnn
  | 0x2 => .call d.nnn
  | 0x3 => .seVxNn d.x d.nn
  | 0x4 => .sneVxNn d.x d.nn
  | 0x5 => if d.n = 0#4 then .seVxVy d.x d.y else .nop5xyn d.x d.y d.n
  | 0x6 => .ldVxNn d.x d.nn
  | 0x7 => .addVxNn d.x d.nn
  | 0x8 => decodeClass8 d.x d.y d.n
  | 0x9 => if d.n = 0#4 then .sneVxVy d.x d.y else .nop9xyn d.x d.y d.n
  | 0xA => .ldINnn d.nnn
  | 0xB => .nopBnnn d.nnn
  | 0xC => .nopCxnn d.x d.nn
  | 0xD => .drw d.x d.y d.n
  | 0xE => .nopExnn d.x d.nn
  | _ => .nopFxnn d.x d.nn

/-- The instruction a word stands for: every word has one, and no decoding raises anything (R45, R51). -/
def decode (op : Word) : Instr := (fields op).select

/-- Two consecutive bytes combined high byte first (20_memory.md R34). -/
def wordOfBytes (high low : Byte) : Word := high ++ low

/-- A word's two bytes as they stand in memory, the high byte at the lower address (20_memory.md R34). -/
def bytesOfWord (w : Word) : List Byte := [w.extractLsb' 8 8, w.extractLsb' 0 8]

/-- Why a list of bytes starts with no instruction: an instruction is 2 bytes long (R52) and fewer are left. -/
inductive DecodeError where
  | truncated (left : Nat)
  deriving DecidableEq, Repr

/-- The first instruction of a list of bytes and the bytes after it; total on any bytes (R43, R52). -/
def decodeBytes : List Byte → Except DecodeError (Instr × List Byte)
  | high :: low :: rest => .ok (decode (wordOfBytes high low), rest)
  | [_] => .error (.truncated 1)
  | [] => .error (.truncated 0)

/-- The word whose bits, numbered as spec/opcode_table.json numbers them, are the low `nbits` bits of `w`. -/
def tableWord (nbits w : Nat) : Word := BitVec.ofNat 16 (w % 2 ^ nbits)

/-- The instruction the decoder reads from an instruction's bits as spec/opcode_table.json numbers them: the word is
laid out as it stands in memory and given to the decoder. -/
def decodeTableWord (nbits w : Nat) : Option Instr :=
  match decodeBytes (bytesOfWord (tableWord nbits w)) with
  | .ok (i, _) => some i
  | .error _ => none

/-! The encoder: the three layouts of R44's format table, then one word per constructor (R50, R84 to R91). -/

/-- Layout NNN: class nibble, 12-bit address. -/
def wordNNN (c : Nibble) (nnn : Addr12) : Word := c ++ nnn

/-- Layout XNN: class nibble, register, 8-bit immediate. -/
def wordXNN (c x : Nibble) (nn : Byte) : Word := c ++ x ++ nn

/-- Layouts XY and XYN: class nibble, two registers, low nibble. -/
def wordXYN (c x y n : Nibble) : Word := c ++ x ++ y ++ n

/-- The word of an instruction. -/
def encode : Instr → Word
  | .cls => 0x00E0#16
  | .ret => 0x00EE#16
  | .jp nnn => wordNNN 0x1#4 nnn
  | .call nnn => wordNNN 0x2#4 nnn
  | .seVxNn x nn => wordXNN 0x3#4 x nn
  | .sneVxNn x nn => wordXNN 0x4#4 x nn
  | .seVxVy x y => wordXYN 0x5#4 x y 0x0#4
  | .ldVxNn x nn => wordXNN 0x6#4 x nn
  | .addVxNn x nn => wordXNN 0x7#4 x nn
  | .ldVxVy x y => wordXYN 0x8#4 x y 0x0#4
  | .orVxVy x y => wordXYN 0x8#4 x y 0x1#4
  | .andVxVy x y => wordXYN 0x8#4 x y 0x2#4
  | .xorVxVy x y => wordXYN 0x8#4 x y 0x3#4
  | .addVxVy x y => wordXYN 0x8#4 x y 0x4#4
  | .subVxVy x y => wordXYN 0x8#4 x y 0x5#4
  | .shrVx x y => wordXYN 0x8#4 x y 0x6#4
  | .subnVxVy x y => wordXYN 0x8#4 x y 0x7#4
  | .shlVx x y => wordXYN 0x8#4 x y 0xE#4
  | .sneVxVy x y => wordXYN 0x9#4 x y 0x0#4
  | .ldINnn nnn => wordNNN 0xA#4 nnn
  | .drw x y n => wordXYN 0xD#4 x y n
  | .nop0nnn nnn => wordNNN 0x0#4 nnn
  | .nop5xyn x y n => wordXYN 0x5#4 x y n
  | .nop8xy8 x y => wordXYN 0x8#4 x y 0x8#4
  | .nop8xy9 x y => wordXYN 0x8#4 x y 0x9#4
  | .nop8xya x y => wordXYN 0x8#4 x y 0xA#4
  | .nop8xyb x y => wordXYN 0x8#4 x y 0xB#4
  | .nop8xyc x y => wordXYN 0x8#4 x y 0xC#4
  | .nop8xyd x y => wordXYN 0x8#4 x y 0xD#4
  | .nop8xyf x y => wordXYN 0x8#4 x y 0xF#4
  | .nop9xyn x y n => wordXYN 0x9#4 x y n
  | .nopBnnn nnn => wordNNN 0xB#4 nnn
  | .nopCxnn x nn => wordXNN 0xC#4 x nn
  | .nopExnn x nn => wordXNN 0xE#4 x nn
  | .nopFxnn x nn => wordXNN 0xF#4 x nn

/-! The opcode map of R50 as data, for the statements that hold the decoder against it. -/

/-- One row of R50: the row is selected by `op` when `op AND mask = pattern` (the table's `match`). -/
structure OpcodeRow where
  mnemonic : String
  pattern : Word
  mask : Word
  deriving DecidableEq, Repr

/-- A row selects a word (R50). -/
def OpcodeRow.selects (r : OpcodeRow) (op : Word) : Bool := op &&& r.mask == r.pattern

/-- The 21 rows of R50, in its order. -/
def opcodeMap : List OpcodeRow :=
  [ ⟨"CLS", 0x00E0#16, 0xFFFF#16⟩,
    ⟨"RET", 0x00EE#16, 0xFFFF#16⟩,
    ⟨"JP", 0x1000#16, 0xF000#16⟩,
    ⟨"CALL", 0x2000#16, 0xF000#16⟩,
    ⟨"SE_VX_NN", 0x3000#16, 0xF000#16⟩,
    ⟨"SNE_VX_NN", 0x4000#16, 0xF000#16⟩,
    ⟨"SE_VX_VY", 0x5000#16, 0xF00F#16⟩,
    ⟨"LD_VX_NN", 0x6000#16, 0xF000#16⟩,
    ⟨"ADD_VX_NN", 0x7000#16, 0xF000#16⟩,
    ⟨"LD_VX_VY", 0x8000#16, 0xF00F#16⟩,
    ⟨"OR", 0x8001#16, 0xF00F#16⟩,
    ⟨"AND", 0x8002#16, 0xF00F#16⟩,
    ⟨"XOR", 0x8003#16, 0xF00F#16⟩,
    ⟨"ADD_VX_VY", 0x8004#16, 0xF00F#16⟩,
    ⟨"SUB", 0x8005#16, 0xF00F#16⟩,
    ⟨"SHR", 0x8006#16, 0xF00F#16⟩,
    ⟨"SUBN", 0x8007#16, 0xF00F#16⟩,
    ⟨"SHL", 0x800E#16, 0xF00F#16⟩,
    ⟨"SNE_VX_VY", 0x9000#16, 0xF00F#16⟩,
    ⟨"LD_I_NNN", 0xA000#16, 0xF000#16⟩,
    ⟨"DRW", 0xD000#16, 0xF000#16⟩ ]

end Sys2Proof
end

