-- ==== Sys2Proof/Machine/State.lean ====
section
/-! DEFINITION. The machine state of 10_state.md R13 as plain data, its fault record, the reasons a step can stop, and
the state after reset (70_reset_and_hazards.md R118). -/

namespace Sys2Proof.Machine

/-- Main memory (10_state.md R13, 20_memory.md R31): the bytes that differ from what an unlisted address reads as
(Memory.unlisted in Machine/Font.lean), addresses strictly rising. -/
abbrev Memory := List Host.Cell

/-- The display (10_state.md R23): 32 rows of 64 pixels, `disp[y][x]`, true for on. -/
abbrev Display := Vector (Vector Bool 64) 32

/-- The kind of an access to memory (00_scope.md R10). -/
inductive Access where
  | fetch
  | sprite
  deriving DecidableEq, Repr

/-- The causes of 60_exceptions.md R93. -/
inductive Cause where
  /-- 2NNN with 12 occupied stack entries -/
  | stackOverflow
  /-- 00EE with none -/
  | stackUnderflow
  /-- an access to an address above 0xFFF -/
  | addressOutOfRange (access : Access)
  deriving DecidableEq, Repr

/-- The fault record of 60_exceptions.md R95. Its `code` is a function of `cause` (Cause.code in Machine/Ops.lean; log
entry 11). -/
structure FaultRecord where
  cause : Cause
  /-- pc0, the address of the faulting instruction -/
  pc : Word
  /-- the word of the instruction for a fault in the execute phase, absent for a FETCH fault -/
  opcode : Option Word
  /-- the out-of-range address for AddressOutOfRange, absent otherwise; `I + i` does not wrap, so it is a number -/
  addr : Option Nat
  deriving DecidableEq, Repr

/-- The run-state (10_state.md R26). -/
inductive RunState where
  | running
  | paused
  | quit
  deriving DecidableEq, Repr

/-- The kinds of step of 60_exceptions.md R92. -/
inductive Action where
  /-- the CPU's instruction step (R47) -/
  | instruction
  /-- the Timer Clock's tick (R102) -/
  | tick
  /-- the host's keypad write (R108) -/
  | setKey (k : Nibble) (pressed : Bool)
  /-- the host's pause toggle (R110) -/
  | togglePause
  /-- the host's quit (R110) -/
  | quit
  deriving DecidableEq, Repr

/-- The state record of 10_state.md R13, and the model's own `schedule`. -/
structure State where
  /-- main memory (R31) -/
  mem : Memory
  /-- V0 to VF (R14, R15) -/
  v : Vector Byte 16
  /-- the index register I (R17) -/
  i : Word
  /-- the program counter PC (R18) -/
  pc : Word
  /-- the call stack's 12 entries (R20, R22) -/
  stack : Vector Word 12
  /-- SP, the number of occupied stack entries, 0 to 12 (R21) -/
  sp : Fin 13
  /-- the display (R23) -/
  disp : Display
  /-- the keypad, true for pressed (R24) -/
  key : Vector Bool 16
  /-- the delay timer DT (R25) -/
  dt : Byte
  /-- the sound timer ST (R25) -/
  st : Byte
  /-- the run-state (R26) -/
  run : RunState
  /-- the fault field (R27) -/
  fault : Option FaultRecord
  /-- THE MODEL'S OWN field, DESIGN CHOICE (log entry 2): the agents' coming steps in order, which the spec leaves open
  (R92, R103, R111); when it is empty the CPU moves. -/
  schedule : List Action
  deriving DecidableEq, Repr

/-- Why there is no next state. No instruction's meaning answers one of these: an exception is taken as a next state
with the fault record written (60_exceptions.md R95; log entry 1). -/
inductive Fault where
  /-- Raised by `step` in a state that holds a fault record: no step is enabled (60_exceptions.md R96). Safe. -/
  | stopped (record : FaultRecord)
  /-- Raised by `step` in run-state QUIT: no step is enabled (60_exceptions.md R110); the normal end of a run
  (70_reset_and_hazards.md R124). Safe. -/
  | quit
  /-- Raised by `boot` for a ROM over 3584 bytes: a load-time fatal error, no machine is created
  (70_reset_and_hazards.md R116). Safe. -/
  | romTooLong (length : Nat)
  deriving DecidableEq, Repr

/-- Why an instruction has no meaning. Every word has one (00_scope.md R12), so nothing raises this. -/
inductive Refusal where
  /-- Would be raised by an arm of `exec` whose instruction has no meaning yet; no arm does. Safe. -/
  | notModelled (mnemonic : String)
  deriving DecidableEq, Repr

/-- The state after reset (70_reset_and_hazards.md R118) with an empty ROM; memory lists nothing, so it reads as the
font and zeros. V, I, DT, ST, display, keypad and the unoccupied stack entries: the spec's own decisions (log entries
5, 6, 14). `schedule`: DESIGN CHOICE (log entry 2). -/
def State.reset : State where
  mem := []
  v := Vector.replicate 16 0#8
  i := 0#16
  pc := 0x200#16
  stack := Vector.replicate 12 0#16
  sp := 0
  disp := Vector.replicate 32 (Vector.replicate 64 false)
  key := Vector.replicate 16 false
  dt := 0#8
  st := 0#8
  run := .running
  fault := none
  schedule := []

end Sys2Proof.Machine
end

