-- ==== Sys2Proof/Machine/Font.lean ====
section
/-! DEFINITION. The font (20_memory.md R33) and what an address that memory does not list reads as. -/

namespace Sys2Proof.Machine

/-- Glyphs 0 to 7, PRESUMED: the default of the parameter FONT (R33), which the spec takes from general knowledge
(log entry 8). -/
def fontLow : List Byte :=
  [ 0xF0#8, 0x90#8, 0x90#8, 0x90#8, 0xF0#8,
    0x20#8, 0x60#8, 0x20#8, 0x20#8, 0x70#8,
    0xF0#8, 0x10#8, 0xF0#8, 0x80#8, 0xF0#8,
    0xF0#8, 0x10#8, 0xF0#8, 0x10#8, 0xF0#8,
    0x90#8, 0x90#8, 0xF0#8, 0x10#8, 0x10#8,
    0xF0#8, 0x80#8, 0xF0#8, 0x10#8, 0xF0#8,
    0xF0#8, 0x80#8, 0xF0#8, 0x90#8, 0xF0#8,
    0xF0#8, 0x10#8, 0x20#8, 0x40#8, 0x40#8 ]

/-- Glyphs 8 to F, PRESUMED as glyphs 0 to 7 (log entry 8). -/
def fontHigh : List Byte :=
  [ 0xF0#8, 0x90#8, 0xF0#8, 0x90#8, 0xF0#8,
    0xF0#8, 0x90#8, 0xF0#8, 0x10#8, 0xF0#8,
    0xF0#8, 0x90#8, 0xF0#8, 0x90#8, 0x90#8,
    0xE0#8, 0x90#8, 0xE0#8, 0x90#8, 0xE0#8,
    0xF0#8, 0x80#8, 0x80#8, 0x80#8, 0xF0#8,
    0xE0#8, 0x90#8, 0x90#8, 0x90#8, 0xE0#8,
    0xF0#8, 0x80#8, 0xF0#8, 0x80#8, 0xF0#8,
    0xF0#8, 0x80#8, 0xF0#8, 0x80#8, 0x80#8 ]

/-- The font's 80 bytes; glyph k at 5k to 5k + 4, top row first (R33). -/
def font : List Byte := fontLow ++ fontHigh

/-- What an address that memory does not list reads as: the reset contents, which are the font at 0x000 to 0x04F and
zero elsewhere (20_memory.md R32, 70_reset_and_hazards.md R118; log entries 7 and 8). -/
def Memory.unlisted (a : Nat) : Byte := font.getD a 0#8

end Sys2Proof.Machine
end

