-- ==== Sys2Proof/Machine/Ops.lean ====
section
/-! DEFINITION. The named operations over memory, registers, the call stack and the display, and raising an
exception. There is no operation beside it that returns from one: a fault is terminal, there is no trap entry and no
trap return (60_exceptions.md R96, R99, R100). -/

namespace Sys2Proof.Machine

/-! ## Memory (00_scope.md R10, 20_memory.md) -/

/-- The byte listed for an address, if any. -/
def Memory.lookup : Memory → Nat → Option Byte
  | [], _ => none
  | (a, b) :: m, k => if a = k then some b else Memory.lookup m k

/-- The byte at an address. -/
def Memory.read (m : Memory) (k : Nat) : Byte := (m.lookup k).getD (Memory.unlisted k)

/-- List a byte at an address, keeping the addresses rising. -/
def Memory.insert : Memory → Nat → Byte → Memory
  | [], k, b => [(k, b)]
  | (a, c) :: m, k, b =>
    if k < a then (k, b) :: (a, c) :: m
    else if k = a then (k, b) :: m
    else (a, c) :: Memory.insert m k b

/-- Take an address off the list. -/
def Memory.erase : Memory → Nat → Memory
  | [], _ => []
  | (a, c) :: m, k => if a = k then m else (a, c) :: Memory.erase m k

/-- Write one byte. Writing what an unlisted address reads as takes the address off the list. No address above 0xFFF
exists (20_memory.md R37), and nothing is written there. -/
def Memory.write (m : Memory) (k : Nat) (b : Byte) : Memory :=
  if k < Config.memSize then
    if b = Memory.unlisted k then m.erase k else m.insert k b
  else m

/-- MemWrite of consecutive bytes from an address up (00_scope.md R10). Only the boot loader uses it, and never beyond
0xFFF (20_memory.md R38, 70_reset_and_hazards.md R116). -/
def Memory.writeBytes : Memory → Nat → List Byte → Memory
  | m, _, [] => m
  | m, a, b :: bs => Memory.writeBytes (m.write a b) (a + 1) bs

/-- The canonical form from an address up: addresses strictly rising and inside the address space, no entry equal to
what an unlisted address reads as. -/
def Memory.wfFrom : Nat → Memory → Bool
  | _, [] => true
  | lo, (a, b) :: m =>
    decide (lo ≤ a) && decide (a < Config.memSize) && decide (b ≠ Memory.unlisted a) && Memory.wfFrom (a + 1) m

/-- The canonical form of memory. -/
def Memory.wf (m : Memory) : Bool := Memory.wfFrom 0 m

/-- MemRead(a, 1) (00_scope.md R10): the byte, or the address when it exceeds 0xFFF (20_memory.md R37). -/
def Memory.read8 (m : Memory) (a : Nat) : Except Nat Byte :=
  if a < Config.memSize then .ok (m.read a) else .error a

/-- MemRead(a, 2) (00_scope.md R10): both bytes, high byte first, or the first address above 0xFFF; the sum a + 1 does
not wrap. -/
def Memory.read16 (m : Memory) (a : Nat) : Except Nat Word :=
  match m.read8 a with
  | .error e => .error e
  | .ok high =>
    match m.read8 (a + 1) with
    | .error e => .error e
    | .ok low => .ok (wordOfBytes high low)

/-! ## Registers (10_state.md R14 to R18) -/

/-- Read V[r] (00_scope.md R9). -/
def State.getV (s : State) (r : Nibble) : Byte := s.v[r.toNat]'r.isLt

/-- V[r] <- b (00_scope.md R9). -/
def State.setV (s : State) (r : Nibble) (b : Byte) : State := { s with v := s.v.set r.toNat b r.isLt }

/-- I <- w. -/
def State.setI (s : State) (w : Word) : State := { s with i := w }

/-- PC <- target. -/
def State.setPc (s : State) (target : Word) : State := { s with pc := target }

/-- PC <- (PC + 2) mod 2^16: what the fetch does before the execute phase (30_encoding.md R47, R48). -/
def State.advance (s : State) : State := s.setPc (s.pc + 2#16)

/-- A skip: PC <- (PC + 2) mod 2^16 when the condition holds (40_control_flow.md R54). -/
def State.skipIf (s : State) (c : Bool) : State := if c then s.setPc (s.pc + 2#16) else s

/-! ## The call stack (10_state.md R20, R21) -/

/-- Push: stack[SP] <- w, SP <- SP + 1; nothing when 12 entries are occupied. -/
def State.push? (s : State) (w : Word) : Option State :=
  if h : s.sp.val < 12 then
    some { s with stack := s.stack.set s.sp.val w h, sp := ⟨s.sp.val + 1, by omega⟩ }
  else none

/-- Pop: SP <- SP - 1, and the entry stack[SP]; nothing when no entry is occupied. The vacated entry keeps its value
(40_control_flow.md R55). -/
def State.pop? (s : State) : Option (Word × State) :=
  if h : 0 < s.sp.val then
    some (s.stack[s.sp.val - 1]'(by omega), { s with sp := ⟨s.sp.val - 1, by omega⟩ })
  else none

/-! ## The display (10_state.md R23) -/

/-- The pixel `disp[y][x]`; off outside the screen. -/
def Display.pixel (d : Display) (y x : Nat) : Bool :=
  if h : y < 32 ∧ x < 64 then (d[y]'h.1)[x]'h.2 else false

/-- disp[y][x] <- b; nothing outside the screen. -/
def Display.setPixel (d : Display) (y x : Nat) (b : Bool) : Display :=
  if h : y < 32 ∧ x < 64 then d.set y ((d[y]'h.1).set x b h.2) h.1 else d

/-- Every pixel off. -/
def Display.clear : Display := Vector.replicate 32 (Vector.replicate 64 false)

/-- Write the display. -/
def State.setDisp (s : State) (d : Display) : State := { s with disp := d }

/-! ## The keypad, the timers and the run-state (10_state.md R24 to R26) -/

/-- key[k] <- b (60_exceptions.md R108). -/
def State.setKey (s : State) (k : Nibble) (b : Bool) : State := { s with key := s.key.set k.toNat b k.isLt }

/-- Read key[k]. -/
def State.getKey (s : State) (k : Nibble) : Bool := s.key[k.toNat]'k.isLt

/-- DT <- d, ST <- t. -/
def State.setTimers (s : State) (d t : Byte) : State := { s with dt := d, st := t }

/-- The sound signal (60_exceptions.md R109): ST is not 0. -/
def State.soundOn (s : State) : Bool := s.st != 0#8

/-- Write the run-state. -/
def State.setRun (s : State) (r : RunState) : State := { s with run := r }

/-- Replace the schedule (the model's own field, log entry 2). -/
def State.setSchedule (s : State) (l : List Action) : State := { s with schedule := l }

/-! ## Exceptions (60_exceptions.md R93 to R97) -/

/-- The exception's code (R93; the spec's decision D8). -/
def Cause.code : Cause → Nat
  | .stackOverflow => 1
  | .stackUnderflow => 2
  | .addressOutOfRange _ => 3

/-- The record's code (R95). -/
def FaultRecord.code (r : FaultRecord) : Nat := r.cause.code

/-- Raise an exception in a step that began in `s` (R94, R95): of the step's writes none is committed, so the state is
`s` itself, PC at pc0, with the record written. -/
def State.raise (s : State) (cause : Cause) (opcode : Option Word) (addr : Option Nat) : State :=
  { s with fault := some { cause, pc := s.pc, opcode, addr } }

end Sys2Proof.Machine
end

