-- ==== Sys2Proof/Machine/Boot.lean ====
section
/-! DEFINITION. The boot sequence (70_reset_and_hazards.md R115 to R118) with the parameters RESET_V and FONT of
00_scope.md R6. -/

namespace Sys2Proof.Machine

/-- The state after boot (R115), in its order: every element at its value in `initial` (step 1), the font from 0x000
(step 2, R117), the ROM from 0x200 (step 3, R116), PC, an empty stack, RUNNING, no fault (steps 4 and 5). -/
def State.booted (initial : State) (glyphs rom : List Byte) : State :=
  { initial with
    mem := (initial.mem.writeBytes 0x000 glyphs).writeBytes Config.romBase rom
    pc := 0x200#16
    sp := 0
    run := .running
    fault := none }

/-- Boot from any values of RESET_V, those `initial` holds, and any FONT (R118: a model may take an arbitrary value for
each). A ROM of 0 to 3584 bytes loads; a longer one is a load-time fatal error that creates no machine (R116, decision
D24). -/
def bootWith (initial : State) (glyphs : Vector Byte 80) (rom : List Byte) : Host.Outcome State Fault Refusal :=
  if rom.length ≤ Config.romMax then .next (initial.booted glyphs.toList rom) else .fault (.romTooLong rom.length)

/-- Boot with the defaults: RESET_V zero and off, the default font (R118, 20_memory.md R33). -/
def boot (rom : List Byte) : Host.Outcome State Fault Refusal :=
  if rom.length ≤ Config.romMax then .next (State.reset.booted font rom) else .fault (.romTooLong rom.length)

end Sys2Proof.Machine
end

