-- ==== Sys2Proof/Machine/Operands.lean ====
section
/-! DEFINITION. The operand forms (30_encoding.md R46): a register, an 8-bit immediate, a 12-bit address. The sprite's
row count N is a plain number, `n.toNat`. -/

namespace Sys2Proof.Machine

/-- An 8-bit source operand: V[Y] or NN. -/
inductive Source where
  | reg (r : Nibble)
  | imm (nn : Byte)
  deriving DecidableEq, Repr

/-- The value of a source: an immediate is used exactly as extracted (R46). -/
def State.value (s : State) : Source → Byte
  | .reg r => s.getV r
  | .imm nn => nn

/-- zext_16(NNN) (00_scope.md R8, 30_encoding.md R46). -/
def zext16 (nnn : Addr12) : Word := BitVec.ofNat 16 nnn.toNat

end Sys2Proof.Machine
end

