-- ==== Sys2Proof/Machine/Flags.lean ====
section
/-! DEFINITION. The results and flags of the ALU and shift unit (42_alu.md R65, R66): operands are taken as numbers,
the exact result is narrowed mod 256, and the flag is computed from the captured operands. -/

namespace Sys2Proof.Machine

/-- VF, the flag register (10_state.md R15). -/
def regVF : Nibble := 0xF#4

/-- A flag as VF holds it: 0x01 or 0x00. -/
def flagByte (f : Bool) : Byte := if f then 0x01#8 else 0x00#8

/-- (a + b) mod 256 (R63, R71). -/
def sum8 (a b : Byte) : Byte := BitVec.ofNat 8 (a.toNat + b.toNat)

/-- Carry: the widened sum exceeds 255 (R71). -/
def carry (a b : Byte) : Bool := decide (a.toNat + b.toNat > 255)

/-- (a - b) mod 256: a negative difference d becomes d + 256 (R65, R72, R73). -/
def diff8 (a b : Byte) : Byte := BitVec.ofInt 8 ((a.toNat : Int) - (b.toNat : Int))

/-- NOT borrow of a - b: clear when b > a, so set for equal operands (R72, R73). -/
def notBorrow (a b : Byte) : Bool := !decide (b.toNat > a.toNat)

/-- a >> 1, bit 7 becomes 0 (R74). -/
def shiftRight1 (a : Byte) : Byte := BitVec.ofNat 8 (a.toNat / 2)

/-- (a << 1) mod 256, bit 0 becomes 0 (R75). -/
def shiftLeft1 (a : Byte) : Byte := BitVec.ofNat 8 (a.toNat * 2)

/-- The result to V[x] first, the flag to VF last (R66, 90_conflicts.md C2). -/
def State.setResultFlag (s : State) (x : Nibble) (result : Byte) (flag : Bool) : State :=
  (s.setV x result).setV regVF (flagByte flag)

end Sys2Proof.Machine
end

