-- ==== Sys2Proof/Machine/Alu.lean ====
section
/-! DEFINITION. The ALU and shift unit (42_alu.md): operands are captured from the state the step began in, before any
write, and VF is written last (R66). -/

namespace Sys2Proof.Machine

/-- An operation that writes V[x] and defines no flag (R67 to R70). -/
def aluPlain (x y : Nibble) (result : Byte → Byte → Byte) (s : State) : Host.Outcome State Fault Refusal :=
  .next (s.advance.setV x (result (s.getV x) (s.value (.reg y))))

/-- An operation that writes V[x] and then its flag to VF (R71 to R75). -/
def aluFlag (x y : Nibble) (result : Byte → Byte → Byte) (flag : Byte → Byte → Bool) (s : State) :
    Host.Outcome State Fault Refusal :=
  .next (s.advance.setResultFlag x (result (s.getV x) (s.value (.reg y))) (flag (s.getV x) (s.value (.reg y))))

/-- LD Vx, Vy (R67). -/
def execLdVxVy (x y : Nibble) (s : State) : Host.Outcome State Fault Refusal :=
  aluPlain x y (fun _ b => b) s

/-- OR Vx, Vy (R68): VF is not reset. -/
def execOrVxVy (x y : Nibble) (s : State) : Host.Outcome State Fault Refusal :=
  aluPlain x y (fun a b => a ||| b) s

/-- AND Vx, Vy (R69). -/
def execAndVxVy (x y : Nibble) (s : State) : Host.Outcome State Fault Refusal :=
  aluPlain x y (fun a b => a &&& b) s

/-- XOR Vx, Vy (R70). -/
def execXorVxVy (x y : Nibble) (s : State) : Host.Outcome State Fault Refusal :=
  aluPlain x y (fun a b => a ^^^ b) s

/-- ADD Vx, Vy (R71): VF = carry. -/
def execAddVxVy (x y : Nibble) (s : State) : Host.Outcome State Fault Refusal :=
  aluFlag x y sum8 carry s

/-- SUB Vx, Vy (R72): VF = NOT borrow of V[x] - V[y]. -/
def execSubVxVy (x y : Nibble) (s : State) : Host.Outcome State Fault Refusal :=
  aluFlag x y diff8 notBorrow s

/-- SUBN Vx, Vy (R73): VF = NOT borrow of V[y] - V[x]. -/
def execSubnVxVy (x y : Nibble) (s : State) : Host.Outcome State Fault Refusal :=
  aluFlag x y (fun a b => diff8 b a) (fun a b => notBorrow b a) s

/-- SHR Vx (R74): VF = bit 0 of the old V[x]; y is ignored. -/
def execShrVx (x y : Nibble) (s : State) : Host.Outcome State Fault Refusal :=
  aluFlag x y (fun a _ => shiftRight1 a) (fun a _ => a.getLsbD 0) s

/-- SHL Vx (R75): VF = bit 7 of the old V[x]; y is ignored. -/
def execShlVx (x y : Nibble) (s : State) : Host.Outcome State Fault Refusal :=
  aluFlag x y (fun a _ => shiftLeft1 a) (fun a _ => a.getLsbD 7) s

end Sys2Proof.Machine
end

