-- ==== Sys2Proof/Machine/ControlFlow.lean ====
section
/-! DEFINITION. Control flow (40_control_flow.md). Every meaning takes the state the step began in, PC = pc0, and
advances PC before its own effect (30_encoding.md R47, R48). -/

namespace Sys2Proof.Machine

/-- RET (R55). -/
def execRet (s : State) : Host.Outcome State Fault Refusal :=
  match s.advance.pop? with
  | none => .next (s.raise .stackUnderflow (some (encode .ret)) none)
  | some (target, t) => .next (t.setPc target)

/-- JP addr (R56). -/
def execJp (nnn : Addr12) (s : State) : Host.Outcome State Fault Refusal :=
  .next (s.advance.setPc (zext16 nnn))

/-- CALL addr (R57): the advanced PC is pushed. -/
def execCall (nnn : Addr12) (s : State) : Host.Outcome State Fault Refusal :=
  match s.advance.push? s.advance.pc with
  | none => .next (s.raise .stackOverflow (some (encode (.call nnn))) none)
  | some t => .next (t.setPc (zext16 nnn))

/-- Skip when V[x] equals the source (R58, R60). -/
def skipEqual (x : Nibble) (src : Source) (s : State) : Host.Outcome State Fault Refusal :=
  .next (s.advance.skipIf (s.getV x == s.value src))

/-- Skip when V[x] differs from the source (R59, R61). -/
def skipNotEqual (x : Nibble) (src : Source) (s : State) : Host.Outcome State Fault Refusal :=
  .next (s.advance.skipIf (s.getV x != s.value src))

/-- SE Vx, byte (R58). -/
def execSeVxNn (x : Nibble) (nn : Byte) (s : State) : Host.Outcome State Fault Refusal :=
  skipEqual x (.imm nn) s

/-- SNE Vx, byte (R59). -/
def execSneVxNn (x : Nibble) (nn : Byte) (s : State) : Host.Outcome State Fault Refusal :=
  skipNotEqual x (.imm nn) s

/-- SE Vx, Vy (R60). -/
def execSeVxVy (x y : Nibble) (s : State) : Host.Outcome State Fault Refusal :=
  skipEqual x (.reg y) s

/-- SNE Vx, Vy (R61). -/
def execSneVxVy (x y : Nibble) (s : State) : Host.Outcome State Fault Refusal :=
  skipNotEqual x (.reg y) s

end Sys2Proof.Machine
end

