-- ==== Sys2Proof/Machine/Loads.lean ====
section
/-! DEFINITION. Immediate loads and add (41_register_loads.md). -/

namespace Sys2Proof.Machine

/-- LD Vx, byte (R62). -/
def execLdVxNn (x : Nibble) (nn : Byte) (s : State) : Host.Outcome State Fault Refusal :=
  .next (s.advance.setV x (s.value (.imm nn)))

/-- ADD Vx, byte (R63): no flag. -/
def execAddVxNn (x : Nibble) (nn : Byte) (s : State) : Host.Outcome State Fault Refusal :=
  .next (s.advance.setV x (sum8 (s.getV x) (s.value (.imm nn))))

/-- LD I, addr (R64). -/
def execLdINnn (nnn : Addr12) (s : State) : Host.Outcome State Fault Refusal :=
  .next (s.advance.setI (zext16 nnn))

end Sys2Proof.Machine
end

