-- ==== Sys2Proof/Machine/NoOp.lean ====
section
/-! DEFINITION. The unimplemented encodings (44_no_op.md): each is a no-op, whose whole effect is the advance of PC
that the fetch makes (R83). -/

namespace Sys2Proof.Machine

/-- "state unchanged beyond the PC already advanced" (R83). -/
def noOp (s : State) : Host.Outcome State Fault Refusal := .next s.advance

/-- No-op: class 0 other than 00E0 and 00EE (R84). -/
def execNop0nnn (_nnn : Addr12) (s : State) : Host.Outcome State Fault Refusal := noOp s

/-- No-op: class 5, low nibble not 0 (R85). -/
def execNop5xyn (_x _y _n : Nibble) (s : State) : Host.Outcome State Fault Refusal := noOp s

/-- No-op: 8XY8 (R86). -/
def execNop8xy8 (_x _y : Nibble) (s : State) : Host.Outcome State Fault Refusal := noOp s

/-- No-op: 8XY9 (R86). -/
def execNop8xy9 (_x _y : Nibble) (s : State) : Host.Outcome State Fault Refusal := noOp s

/-- No-op: 8XYA (R86). -/
def execNop8xya (_x _y : Nibble) (s : State) : Host.Outcome State Fault Refusal := noOp s

/-- No-op: 8XYB (R86). -/
def execNop8xyb (_x _y : Nibble) (s : State) : Host.Outcome State Fault Refusal := noOp s

/-- No-op: 8XYC (R86). -/
def execNop8xyc (_x _y : Nibble) (s : State) : Host.Outcome State Fault Refusal := noOp s

/-- No-op: 8XYD (R86). -/
def execNop8xyd (_x _y : Nibble) (s : State) : Host.Outcome State Fault Refusal := noOp s

/-- No-op: 8XYF (R86). -/
def execNop8xyf (_x _y : Nibble) (s : State) : Host.Outcome State Fault Refusal := noOp s

/-- No-op: class 9, low nibble not 0 (R87). -/
def execNop9xyn (_x _y _n : Nibble) (s : State) : Host.Outcome State Fault Refusal := noOp s

/-- No-op: class B: no jump (R88). -/
def execNopBnnn (_nnn : Addr12) (s : State) : Host.Outcome State Fault Refusal := noOp s

/-- No-op: class C: no random source (R89). -/
def execNopCxnn (_x : Nibble) (_nn : Byte) (s : State) : Host.Outcome State Fault Refusal := noOp s

/-- No-op: class E: no key skip (R90). -/
def execNopExnn (_x : Nibble) (_nn : Byte) (s : State) : Host.Outcome State Fault Refusal := noOp s

/-- No-op: class F: no timer access, wait, store or load (R91). -/
def execNopFxnn (_x : Nibble) (_nn : Byte) (s : State) : Host.Outcome State Fault Refusal := noOp s

end Sys2Proof.Machine
end

