-- ==== Sys2Proof/Machine/Screen.lean ====
section
/-! DEFINITION. The display instructions (43_display.md): CLS, and DRW with its sprite rasterizer and collision
detector. -/

namespace Sys2Proof.Machine

/-- CLS (R76). -/
def execCls (s : State) : Host.Outcome State Fault Refusal :=
  .next (s.advance.setDisp Display.clear)

/-- What a draw works on: the display and the collision flag `c` of R77's pseudocode. -/
structure Canvas where
  disp : Display
  hit : Bool
  deriving DecidableEq, Repr

/-- One sprite bit onto one pixel (R77, R81): a set bit over a pixel that is on is a collision, which is sticky; the
pixel becomes old XOR bit. -/
def drawPixel (c : Canvas) (row col : Nat) (bit : Bool) : Canvas where
  disp := c.disp.setPixel row col (xor (c.disp.pixel row col) bit)
  hit := c.hit || (bit && c.disp.pixel row col)

/-- The bits j - 1 down to 0 of a sprite byte, bit j at column x0 + (7 - j); the rest of the row is left out once the
column reaches 64 (R77 to R79). -/
def drawBits (sprite : Byte) (row x0 : Nat) : Nat → Canvas → Canvas
  | 0, c => c
  | j + 1, c =>
    if Config.dispW ≤ x0 + (7 - j) then c
    else drawBits sprite row x0 j (drawPixel c row (x0 + (7 - j)) (sprite.getLsbD j))

/-- `k` more sprite rows from row `i` on: the rows that remain are neither drawn nor read once the row reaches 32
(R79, R80); a row above 0xFFF ends the draw with its address, base + i without wrap (R80). -/
def drawRows (m : Memory) (base x0 y0 : Nat) : Nat → Nat → Canvas → Except Nat Canvas
  | 0, _, c => .ok c
  | k + 1, i, c =>
    if Config.dispH ≤ y0 + i then .ok c
    else
      match m.read8 (base + i) with
      | .error a => .error a
      | .ok sprite => drawRows m base x0 y0 k (i + 1) (drawBits sprite (y0 + i) x0 8 c)

/-- DRW Vx, Vy, nibble (R77): the coordinates are read first and wrap (R78), VF is written last; a fault commits
nothing (60_exceptions.md R94). -/
def execDrw (x y n : Nibble) (s : State) : Host.Outcome State Fault Refusal :=
  match drawRows s.mem s.i.toNat ((s.getV x).toNat % 64) ((s.getV y).toNat % 32) n.toNat 0 ⟨s.disp, false⟩ with
  | .error a => .next (s.raise (.addressOutOfRange .sprite) (some (encode (.drw x y n))) (some a))
  | .ok c => .next ((s.advance.setDisp c.disp).setV regVF (flagByte c.hit))

end Sys2Proof.Machine
end

