-- ==== Sys2Proof/Machine/Dispatch.lean ====
section
/-! DEFINITION. The execute phase's dispatch (30_encoding.md R49): one arm per constructor. -/

namespace Sys2Proof.Machine

def exec (i : Instr) (s : State) : Host.Outcome State Fault Refusal :=
  match i with
  | .cls => Sys2Proof.Machine.execCls s
  | .ret => Sys2Proof.Machine.execRet s
  | .jp nnn => Sys2Proof.Machine.execJp nnn s
  | .call nnn => Sys2Proof.Machine.execCall nnn s
  | .seVxNn x nn => Sys2Proof.Machine.execSeVxNn x nn s
  | .sneVxNn x nn => Sys2Proof.Machine.execSneVxNn x nn s
  | .seVxVy x y => Sys2Proof.Machine.execSeVxVy x y s
  | .ldVxNn x nn => Sys2Proof.Machine.execLdVxNn x nn s
  | .addVxNn x nn => Sys2Proof.Machine.execAddVxNn x nn s
  | .ldVxVy x y => Sys2Proof.Machine.execLdVxVy x y s
  | .orVxVy x y => Sys2Proof.Machine.execOrVxVy x y s
  | .andVxVy x y => Sys2Proof.Machine.execAndVxVy x y s
  | .xorVxVy x y => Sys2Proof.Machine.execXorVxVy x y s
  | .addVxVy x y => Sys2Proof.Machine.execAddVxVy x y s
  | .subVxVy x y => Sys2Proof.Machine.execSubVxVy x y s
  | .shrVx x y => Sys2Proof.Machine.execShrVx x y s
  | .subnVxVy x y => Sys2Proof.Machine.execSubnVxVy x y s
  | .shlVx x y => Sys2Proof.Machine.execShlVx x y s
  | .sneVxVy x y => Sys2Proof.Machine.execSneVxVy x y s
  | .ldINnn nnn => Sys2Proof.Machine.execLdINnn nnn s
  | .drw x y n => Sys2Proof.Machine.execDrw x y n s
  | .nop0nnn nnn => Sys2Proof.Machine.execNop0nnn nnn s
  | .nop5xyn x y n => Sys2Proof.Machine.execNop5xyn x y n s
  | .nop8xy8 x y => Sys2Proof.Machine.execNop8xy8 x y s
  | .nop8xy9 x y => Sys2Proof.Machine.execNop8xy9 x y s
  | .nop8xya x y => Sys2Proof.Machine.execNop8xya x y s
  | .nop8xyb x y => Sys2Proof.Machine.execNop8xyb x y s
  | .nop8xyc x y => Sys2Proof.Machine.execNop8xyc x y s
  | .nop8xyd x y => Sys2Proof.Machine.execNop8xyd x y s
  | .nop8xyf x y => Sys2Proof.Machine.execNop8xyf x y s
  | .nop9xyn x y n => Sys2Proof.Machine.execNop9xyn x y n s
  | .nopBnnn nnn => Sys2Proof.Machine.execNopBnnn nnn s
  | .nopCxnn x nn => Sys2Proof.Machine.execNopCxnn x nn s
  | .nopExnn x nn => Sys2Proof.Machine.execNopExnn x nn s
  | .nopFxnn x nn => Sys2Proof.Machine.execNopFxnn x nn s

end Sys2Proof.Machine
end

