-- ==== Sys2Proof/Machine/HostEvents.lean ====
section
/-! DEFINITION. The Host Adapter's run-state events (60_exceptions.md R110). Its keypad write is State.setKey (R108). -/

namespace Sys2Proof.Machine

/-- Where a pause toggle leads (R110): QUIT has no transition. -/
def RunState.toggled : RunState → RunState
  | .running => .paused
  | .paused => .running
  | .quit => .quit

/-- The pause toggle (R110). -/
def State.togglePause (s : State) : State := s.setRun s.run.toggled

/-- Quit (R110). -/
def State.quit (s : State) : State := s.setRun .quit

end Sys2Proof.Machine
end

