-- ==== Sys2Proof/Machine/Timer.lean ====
section
/-! DEFINITION. The Timer Clock (60_exceptions.md R102). -/

namespace Sys2Proof.Machine

/-- A timer one tick later: one less, floored at 0 (R102). -/
def countDown (t : Byte) : Byte := BitVec.ofNat 8 (t.toNat - 1)

/-- The tick: both timers, each independently, and nothing else (R102). -/
def State.tick (s : State) : State := s.setTimers (countDown s.dt) (countDown s.st)

end Sys2Proof.Machine
end

