-- ==== Sys2Proof/Machine/Cycle.lean ====
section
/-! DEFINITION. The instruction cycle (30_encoding.md R47, R48) and the interleaving of the agents' steps
(60_exceptions.md R92, R103, R110, R111). -/

namespace Sys2Proof.Machine

/-- The fetch: MemRead(PC, 2), or the first address above 0xFFF (30_encoding.md R48). -/
def State.fetch (s : State) : Except Nat Word := s.mem.read16 s.pc.toNat

/-- One fetch-decode-execute cycle (30_encoding.md R47). The fetch fault comes first, with no opcode recorded
(60_exceptions.md R95, R97). -/
def instructionStep (s : State) : Host.Outcome State Fault Refusal :=
  match s.fetch with
  | .error a => .next (s.raise (.addressOutOfRange .fetch) none (some a))
  | .ok op => exec (decode op) s

/-- Whether a step is enabled (60_exceptions.md R92, R96, R103, R108, R110): instruction steps and ticks in RUNNING, host
events in RUNNING and PAUSED, nothing once a fault is recorded or in QUIT. -/
def State.enables (s : State) : Action → Bool
  | .instruction | .tick => s.fault.isNone && s.run == .running
  | .setKey _ _ | .togglePause | .quit => s.fault.isNone && s.run != .quit

/-- An enabled step of one kind (60_exceptions.md R92). -/
def act (a : Action) (s : State) : Host.Outcome State Fault Refusal :=
  match a with
  | .instruction => instructionStep s
  | .tick => .next s.tick
  | .setKey k b => .next (s.setKey k b)
  | .togglePause => .next s.togglePause
  | .quit => .next s.quit

/-- A step of one kind where it is enabled; where it is not, it does not take place and nothing changes (DESIGN CHOICE,
log entry 3). -/
def perform (a : Action) (s : State) : Host.Outcome State Fault Refusal :=
  if s.enables a then act a s else .next s

/-- One step of the machine. With a fault recorded, or in QUIT, there is none (R96, R110; log entries 1 and 4); otherwise
the schedule's next entry is taken off and performed, an instruction step when the schedule is empty (log entry 2). -/
def machineStep (s : State) : Host.Outcome State Fault Refusal :=
  match s.fault with
  | some r => .fault (.stopped r)
  | none =>
    match s.run with
    | .quit => .fault .quit
    | .running | .paused =>
      match s.schedule with
      | [] => perform .instruction s
      | a :: rest => perform a (s.setSchedule rest)

/-- `s` with a word stored at PC, high byte first, and the CPU's instruction step enabled and next: run-state RUNNING, no
fault, an empty schedule (log entry 9). -/
def State.placeWord (s : State) (w : Word) : State :=
  { s with mem := s.mem.writeBytes s.pc.toNat (bytesOfWord w), run := .running, fault := none, schedule := [] }

end Sys2Proof.Machine
end

