-- ==== Sys2Proof/Safety.lean ====
section
/-! DEFINITION. The terms the claims use: what a step leaves unchanged, the sprite as a set of pixels, a spin, and the
invariant of the machine. -/

namespace Sys2Proof.Machine

/-! ## Frames -/

/-- Every byte of memory reads as before (20_memory.md R38). -/
def SameMemory (s t : State) : Prop := ∀ a, t.mem.read a = s.mem.read a

/-- Every general register reads as before (10_state.md R14). -/
def SameV (s t : State) : Prop := ∀ r, t.getV r = s.getV r

/-- Every general register but the listed ones reads as before. -/
def SameVBut (written : List Nibble) (s t : State) : Prop := ∀ r, r ∉ written → t.getV r = s.getV r

/-- The call stack and SP are as before (10_state.md R20, R21). -/
def SameStack (s t : State) : Prop := t.stack = s.stack ∧ t.sp = s.sp

/-- Every pixel is as before (10_state.md R23). -/
def SameDisplay (s t : State) : Prop := ∀ y x, t.disp.pixel y x = s.disp.pixel y x

/-- Keypad, timers, run-state and the schedule are as before: what no instruction writes (10_state.md R24 to R26). -/
def SameDevices (s t : State) : Prop :=
  t.key = s.key ∧ t.dt = s.dt ∧ t.st = s.st ∧ t.run = s.run ∧ t.schedule = s.schedule

/-- What an instruction leaves unchanged that writes registers of V alone, beside PC. -/
def OnlyV (written : List Nibble) (s t : State) : Prop :=
  SameVBut written s t ∧ t.i = s.i ∧ SameStack s t ∧ SameDisplay s t ∧ SameMemory s t ∧ SameDevices s t ∧
    t.fault = s.fault

/-- What an instruction leaves unchanged that writes no state but PC. -/
def OnlyPc (s t : State) : Prop :=
  SameV s t ∧ t.i = s.i ∧ SameStack s t ∧ SameDisplay s t ∧ SameMemory s t ∧ SameDevices s t ∧ t.fault = s.fault

/-- A fault commits nothing: every element but the fault field keeps the value it had before the step, PC included
(60_exceptions.md R94). -/
def OnlyFault (s t : State) : Prop :=
  t.pc = s.pc ∧ SameV s t ∧ t.i = s.i ∧ SameStack s t ∧ SameDisplay s t ∧ SameMemory s t ∧ SameDevices s t

/-- What a step of another agent leaves unchanged, beside the part it writes and the schedule: the CPU's registers, the
stack, the display, memory and the fault field (60_exceptions.md R102, R108, R110). -/
def SameCpu (s t : State) : Prop :=
  t.pc = s.pc ∧ SameV s t ∧ t.i = s.i ∧ SameStack s t ∧ SameDisplay s t ∧ SameMemory s t ∧ t.fault = s.fault

/-- The general registers an instruction may write: the table of 10_state.md R16. -/
def writesV : Instr → List Nibble
  | .ldVxNn x _ | .addVxNn x _ | .ldVxVy x _ | .orVxVy x _ | .andVxVy x _ | .xorVxVy x _ => [x]
  | .addVxVy x _ | .subVxVy x _ | .subnVxVy x _ | .shrVx x _ | .shlVx x _ => [x, 0xF#4]
  | .drw _ _ _ => [0xF#4]
  | .cls | .ret | .jp _ | .call _ | .seVxNn _ _ | .sneVxNn _ _ | .seVxVy _ _ | .sneVxVy _ _ | .ldINnn _
  | .nop0nnn _ | .nop5xyn _ _ _ | .nop8xy8 _ _ | .nop8xy9 _ _ | .nop8xya _ _ | .nop8xyb _ _ | .nop8xyc _ _
  | .nop8xyd _ _ | .nop8xyf _ _ | .nop9xyn _ _ _ | .nopBnnn _ | .nopCxnn _ _ | .nopExnn _ _ | .nopFxnn _ _ => []

/-- Whether an instruction may leave PC elsewhere than at the next instruction word (10_state.md R18): the jumps, the
call, the return and the skips. -/
def transfersControl : Instr → Bool
  | .ret | .jp _ | .call _ | .seVxNn _ _ | .sneVxNn _ _ | .seVxVy _ _ | .sneVxVy _ _ => true
  | .cls | .ldVxNn _ _ | .addVxNn _ _ | .ldVxVy _ _ | .orVxVy _ _ | .andVxVy _ _ | .xorVxVy _ _ | .addVxVy _ _
  | .subVxVy _ _ | .subnVxVy _ _ | .shrVx _ _ | .shlVx _ _ | .drw _ _ _ | .ldINnn _
  | .nop0nnn _ | .nop5xyn _ _ _ | .nop8xy8 _ _ | .nop8xy9 _ _ | .nop8xya _ _ | .nop8xyb _ _ | .nop8xyc _ _
  | .nop8xyd _ _ | .nop8xyf _ _ | .nop9xyn _ _ _ | .nopBnnn _ | .nopCxnn _ _ | .nopExnn _ _ | .nopFxnn _ _ => false

/-! ## The sprite (43_display.md R77 to R82) -/

/-- The bit a sprite of `n` rows at `base`, drawn from column x0 and row y0, puts on the pixel of row r, column c: bit
7 - (c - x0) of the byte at base + (r - y0), and 0 outside the sprite. -/
def spriteBit (m : Memory) (base x0 y0 n r c : Nat) : Bool :=
  decide (y0 ≤ r ∧ r < y0 + n ∧ x0 ≤ c ∧ c < x0 + 8) && (m.read (base + (r - y0))).getLsbD (7 - (c - x0))

/-- The starting column of a draw (R78). -/
def State.startX (s : State) (x : Nibble) : Nat := (s.getV x).toNat % 64

/-- The starting row of a draw (R78). -/
def State.startY (s : State) (y : Nibble) : Nat := (s.getV y).toNat % 32

/-- The sprite bit of `DRW x, y, n` at the pixel of row r, column c, in the state the step begins in. -/
def State.drawnBit (s : State) (x y n : Nibble) (r c : Nat) : Bool :=
  spriteBit s.mem s.i.toNat (s.startX x) (s.startY y) n.toNat r c

/-- Every row that `DRW x, y, n` draws has its byte inside the address space (R80). -/
def State.spriteReadable (s : State) (y n : Nibble) : Prop :=
  ∀ i, i < n.toNat → s.startY y + i < 32 → s.i.toNat + i ≤ 0xFFF

/-! ## Steps of the machine -/

/-- A spin (70_reset_and_hazards.md R124): RUNNING, no fault, and the word at PC is a jump to itself. -/
def State.spin (s : State) : Prop :=
  s.run = .running ∧ s.fault = none ∧ s.pc.toNat ≤ 0xFFD ∧ s.fetch = .ok (0x1000#16 ||| s.pc)

/-! ## The invariant -/

/-- A fault record as 60_exceptions.md R93 and R95 write it: the opcode is absent exactly for FETCH, the address present
exactly for AddressOutOfRange, and then above 0xFFF. -/
def FaultRecord.wellFormed (r : FaultRecord) : Bool :=
  match r.cause with
  | .stackOverflow | .stackUnderflow => r.opcode.isSome && r.addr.isNone
  | .addressOutOfRange .fetch => r.opcode.isNone && r.addr.any (0xFFF < ·)
  | .addressOutOfRange .sprite => r.opcode.isSome && r.addr.any (0xFFF < ·)

/-- The invariant: memory is canonical; I <= 0xFFF (10_state.md R17); PC <= 0x1002 and the occupied stack entries are at
most 0x1000 (R18); a fault record is well-formed and precise, its pc the machine's PC (60_exceptions.md R94). -/
structure State.Inv (s : State) : Prop where
  memory : s.mem.wf = true
  index : s.i.toNat ≤ 0xFFF
  counter : s.pc.toNat ≤ 0x1002
  returns : ∀ k (h : k < 12), k < s.sp.val → (s.stack[k]'h).toNat ≤ 0x1000
  precise : ∀ r, s.fault = some r → r.pc = s.pc ∧ r.wellFormed = true

end Sys2Proof.Machine
end

