-- ==== Sys2Proof/Certificates/Slice0/Obligations.lean ====
section
/-! DEFINITION. The statements for the provers, from the spec's numbered rules. OBLIGATIONS.json lists them. -/

open Sys2Proof Sys2Proof.Machine

/-! ## Encoding (30_encoding.md) -/

/-- Decoding an encoded well-formed instruction gives it back, every operand at every value. -/
def Obligations.DecodeInvertsEncode : Prop :=
  ∀ i : Instr, i.wellFormed = true → decode (encode i) = i

/-- Every word decodes to a well-formed instruction whose word it is (R45, R51). -/
def Obligations.EncodeInvertsDecode : Prop :=
  ∀ op : Word, (decode op).wellFormed = true ∧ encode (decode op) = op

/-- The fields of R44, bit by bit, and their overlaps. -/
def Obligations.FieldsByBitPosition : Prop :=
  ∀ op : Word,
    (∀ k, k < 4 → (fields op).opClass.getLsbD k = op.getLsbD (12 + k)) ∧
    (∀ k, k < 4 → (fields op).x.getLsbD k = op.getLsbD (8 + k)) ∧
    (∀ k, k < 4 → (fields op).y.getLsbD k = op.getLsbD (4 + k)) ∧
    (∀ k, k < 4 → (fields op).n.getLsbD k = op.getLsbD k) ∧
    (∀ k, k < 8 → (fields op).nn.getLsbD k = op.getLsbD k) ∧
    (∀ k, k < 12 → (fields op).nnn.getLsbD k = op.getLsbD k) ∧
    (fields op).nnn = (fields op).x ++ (fields op).nn ∧ (fields op).nn = (fields op).y ++ (fields op).n

/-- The decoder agrees with the opcode map (R50): a row selects a word exactly when the word decodes to the row's
instruction; no two rows select one word; a word that no row selects is a no-op, and no other word is. -/
def Obligations.DecodeAgreesWithOpcodeMap : Prop :=
  ∀ op : Word,
    (∀ r ∈ opcodeMap, r.selects op = true ↔ (decode op).mnemonic = r.mnemonic) ∧
    (∀ r ∈ opcodeMap, ∀ q ∈ opcodeMap, r.selects op = true → q.selects op = true → r = q) ∧
    ((decode op).implemented = false ↔ ∀ r ∈ opcodeMap, r.selects op = false)

/-- Words the spec writes out, one per family (R50, 95_test_vectors.md). -/
def Obligations.SpecWordsDecode : Prop :=
  decode 0x00EE#16 = .ret ∧ decode 0x3342#16 = .seVxNn 0x3#4 0x42#8 ∧ decode 0x6A05#16 = .ldVxNn 0xA#4 0x05#8 ∧
    decode 0x8345#16 = .subVxVy 0x3#4 0x4#4 ∧ decode 0xD0F1#16 = .drw 0x0#4 0xF#4 0x1#4 ∧
    decode 0xAFFF#16 = .ldINnn 0xFFF#12 ∧ decode 0x01E0#16 = .nop0nnn 0x1E0#12 ∧ decode 0xF00A#16 = .nopFxnn 0x0#4 0x0A#8

/-! ## The instruction cycle (30_encoding.md R47, R48) -/

/-- A step runs the decoded instruction: RUNNING, no fault, PC at most 0xFFE, and the instruction step next, either
because nothing is scheduled or because the schedule, the model's own (log entry 2), says so. The word is the bytes at PC and PC + 1, high byte first. -/
def Obligations.StepRunsDecodedInstruction : Prop :=
  ∀ (s : State) (op : Word), s.run = .running → s.fault = none → s.pc.toNat ≤ 0xFFE →
    op.toNat = 256 * (s.mem.read s.pc.toNat).toNat + (s.mem.read (s.pc.toNat + 1)).toNat →
      (s.schedule = [] → step s = exec (decode op) s) ∧
      (∀ rest, s.schedule = .instruction :: rest → step s = exec (decode op) (s.setSchedule rest))

/-- The fetch fault (R48, R93, R97): a fetch that needs a byte above 0xFFF decodes nothing and records
AddressOutOfRange, FETCH, without an opcode and with the first needed address above 0xFFF; for the instruction step of an
empty schedule and for a scheduled one, whose entry is taken off (the schedule is the model's own, log entry 2; the fault
is the spec's decisions D7, D8 and D10, log entries 13 and 16). -/
def Obligations.FetchAboveMemoryFaults : Prop :=
  ∀ s : State, s.run = .running → s.fault = none → 0xFFF ≤ s.pc.toNat →
    ∃ r : FaultRecord, r.code = 3 ∧ r.cause = .addressOutOfRange .fetch ∧ r.pc = s.pc ∧ r.opcode = none ∧
      r.addr = some (if s.pc.toNat = 0xFFF then 0x1000 else s.pc.toNat) ∧
      (s.schedule = [] → ∃ t, step s = .next t ∧ OnlyFault s t ∧ t.fault = some r) ∧
      (∀ rest, s.schedule = .instruction :: rest →
        ∃ t, step s = .next t ∧ OnlyFault (s.setSchedule rest) t ∧ t.fault = some r)

/-- A word placed at PC is what the next step runs, and the table's bit numbering gives that word (the model's placing,
log entry 9). -/
def Obligations.PlacedWordRunsNext : Prop :=
  ∀ (s : State) (nbits w : Nat), s.mem.wf = true → s.pc.toNat ≤ 0xFFE →
    step (s.withFetchWord nbits w) = exec (decode (BitVec.ofNat 16 (w % 2 ^ nbits))) (s.withFetchWord nbits w) ∧
      decodeTableWord nbits w = some (decode (BitVec.ofNat 16 (w % 2 ^ nbits)))

/-- The execute phase always answers a next state: no instruction is refused and none stops without a state (00_scope.md
R12, 30_encoding.md R51). A raised exception is such a state, with the record written (log entry 1). -/
def Obligations.EveryInstructionAnswersNext : Prop :=
  ∀ (i : Instr) (s : State), ∃ t, exec i s = .next t

/-! ## Control flow (40_control_flow.md) -/

/-- JP (R56). -/
def Obligations.JpSetsPc : Prop :=
  (∀ op : Word, op &&& 0xF000#16 = 0x1000#16 → decode op = .jp (fields op).nnn) ∧
  ∀ (nnn : Addr12) (s : State), ∃ t, exec (.jp nnn) s = .next t ∧ t.pc.toNat = nnn.toNat ∧ OnlyPc s t

/-- CALL (R57): the push of the advanced PC below 12 entries, StackOverflow at 12. -/
def Obligations.CallPushesOrOverflows : Prop :=
  (∀ op : Word, op &&& 0xF000#16 = 0x2000#16 → decode op = .call (fields op).nnn) ∧
  (∀ (nnn : Addr12) (s : State) (h : s.sp.val < 12), ∃ t, exec (.call nnn) s = .next t ∧
    t.pc.toNat = nnn.toNat ∧ t.sp.val = s.sp.val + 1 ∧ t.stack[s.sp.val]'h = s.pc + 2#16 ∧
    (∀ k (hk : k < 12), k ≠ s.sp.val → t.stack[k]'hk = s.stack[k]'hk) ∧
    SameV s t ∧ t.i = s.i ∧ SameDisplay s t ∧ SameMemory s t ∧ SameDevices s t ∧ t.fault = s.fault) ∧
  (∀ (nnn : Addr12) (s : State), s.sp.val = 12 → ∃ t r, exec (.call nnn) s = .next t ∧ OnlyFault s t ∧
    t.fault = some r ∧ r.code = 1 ∧ r.cause = .stackOverflow ∧ r.pc = s.pc ∧
    r.opcode = some (BitVec.ofNat 16 (0x2000 + nnn.toNat)) ∧ r.addr = none)

/-- RET (R55): the pop of the newest entry, StackUnderflow on an empty stack. -/
def Obligations.RetPopsOrUnderflows : Prop :=
  (∀ op : Word, op = 0x00EE#16 → decode op = .ret) ∧
  (∀ (s : State) (h : 0 < s.sp.val), ∃ t, exec .ret s = .next t ∧
    t.pc = s.stack[s.sp.val - 1]'(by omega) ∧ t.sp.val + 1 = s.sp.val ∧ t.stack = s.stack ∧
    SameV s t ∧ t.i = s.i ∧ SameDisplay s t ∧ SameMemory s t ∧ SameDevices s t ∧ t.fault = s.fault) ∧
  (∀ s : State, s.sp.val = 0 → ∃ t r, exec .ret s = .next t ∧ OnlyFault s t ∧
    t.fault = some r ∧ r.code = 2 ∧ r.cause = .stackUnderflow ∧ r.pc = s.pc ∧ r.opcode = some 0x00EE#16 ∧ r.addr = none)

/-- SE and SNE with an immediate (R58, R59). -/
def Obligations.SkipsOnImmediate : Prop :=
  (∀ op : Word, op &&& 0xF000#16 = 0x3000#16 → decode op = .seVxNn (fields op).x (fields op).nn) ∧
  (∀ op : Word, op &&& 0xF000#16 = 0x4000#16 → decode op = .sneVxNn (fields op).x (fields op).nn) ∧
  ∀ (x : Nibble) (nn : Byte) (s : State),
    (∃ t, exec (.seVxNn x nn) s = .next t ∧ OnlyPc s t ∧
      t.pc.toNat = (s.pc.toNat + if s.getV x = nn then 4 else 2) % 2 ^ 16) ∧
    (∃ t, exec (.sneVxNn x nn) s = .next t ∧ OnlyPc s t ∧
      t.pc.toNat = (s.pc.toNat + if s.getV x = nn then 2 else 4) % 2 ^ 16)

/-- SE and SNE with a register (R60, R61), and the no-ops of the same classes. -/
def Obligations.SkipsOnRegisters : Prop :=
  (∀ op : Word, op &&& 0xF00F#16 = 0x5000#16 → decode op = .seVxVy (fields op).x (fields op).y) ∧
  (∀ op : Word, op &&& 0xF00F#16 = 0x9000#16 → decode op = .sneVxVy (fields op).x (fields op).y) ∧
  (∀ op : Word, op &&& 0xF000#16 = 0x5000#16 ∨ op &&& 0xF000#16 = 0x9000#16 → op &&& 0x000F#16 ≠ 0#16 →
    ∀ s : State, ∃ t, exec (decode op) s = .next t ∧ t.pc = s.pc + 2#16 ∧ OnlyPc s t) ∧
  ∀ (x y : Nibble) (s : State),
    (∃ t, exec (.seVxVy x y) s = .next t ∧ OnlyPc s t ∧
      t.pc.toNat = (s.pc.toNat + if s.getV x = s.getV y then 4 else 2) % 2 ^ 16) ∧
    (∃ t, exec (.sneVxVy x y) s = .next t ∧ OnlyPc s t ∧
      t.pc.toNat = (s.pc.toNat + if s.getV x = s.getV y then 2 else 4) % 2 ^ 16)

/-- A call and the return at its target: PC is the address after the call and the stack is as deep as before (T8). -/
def Obligations.CallThenReturnComesBack : Prop :=
  ∀ (nnn : Addr12) (s : State), s.sp.val < 12 → ∃ t u, exec (.call nnn) s = .next t ∧ t.pc.toNat = nnn.toNat ∧
    exec .ret t = .next u ∧ u.pc = s.pc + 2#16 ∧ u.sp = s.sp ∧
    (∀ k (hk : k < 12), k < s.sp.val → u.stack[k]'hk = s.stack[k]'hk)

/-! ## Register loads (41_register_loads.md) -/

/-- LD and ADD with an immediate (R62, R63): no flag. -/
def Obligations.LoadsAndAddsImmediate : Prop :=
  (∀ op : Word, op &&& 0xF000#16 = 0x6000#16 → decode op = .ldVxNn (fields op).x (fields op).nn) ∧
  (∀ op : Word, op &&& 0xF000#16 = 0x7000#16 → decode op = .addVxNn (fields op).x (fields op).nn) ∧
  ∀ (x : Nibble) (nn : Byte) (s : State),
    (∃ t, exec (.ldVxNn x nn) s = .next t ∧ t.getV x = nn ∧ t.pc = s.pc + 2#16 ∧ OnlyV [x] s t) ∧
    (∃ t, exec (.addVxNn x nn) s = .next t ∧ (t.getV x).toNat = ((s.getV x).toNat + nn.toNat) % 256 ∧
      t.pc = s.pc + 2#16 ∧ OnlyV [x] s t)

/-- LD I (R64): no range check. -/
def Obligations.LoadsIndex : Prop :=
  (∀ op : Word, op &&& 0xF000#16 = 0xA000#16 → decode op = .ldINnn (fields op).nnn) ∧
  ∀ (nnn : Addr12) (s : State), ∃ t, exec (.ldINnn nnn) s = .next t ∧ t.i.toNat = nnn.toNat ∧ t.pc = s.pc + 2#16 ∧
    SameV s t ∧ SameStack s t ∧ SameDisplay s t ∧ SameMemory s t ∧ SameDevices s t ∧ t.fault = s.fault

/-! ## The ALU and shift unit (42_alu.md) -/

/-- LD, OR, AND, XOR on registers (R67 to R70): no flag. -/
def Obligations.MovesAndBitwiseOps : Prop :=
  (∀ op : Word, op &&& 0xF00F#16 = 0x8000#16 → decode op = .ldVxVy (fields op).x (fields op).y) ∧
  (∀ op : Word, op &&& 0xF00F#16 = 0x8001#16 → decode op = .orVxVy (fields op).x (fields op).y) ∧
  (∀ op : Word, op &&& 0xF00F#16 = 0x8002#16 → decode op = .andVxVy (fields op).x (fields op).y) ∧
  (∀ op : Word, op &&& 0xF00F#16 = 0x8003#16 → decode op = .xorVxVy (fields op).x (fields op).y) ∧
  ∀ (x y : Nibble) (s : State),
    (∃ t, exec (.ldVxVy x y) s = .next t ∧ t.getV x = s.getV y ∧ t.pc = s.pc + 2#16 ∧ OnlyV [x] s t) ∧
    (∃ t, exec (.orVxVy x y) s = .next t ∧
      (∀ k, (t.getV x).getLsbD k = ((s.getV x).getLsbD k || (s.getV y).getLsbD k)) ∧
      t.pc = s.pc + 2#16 ∧ OnlyV [x] s t) ∧
    (∃ t, exec (.andVxVy x y) s = .next t ∧
      (∀ k, (t.getV x).getLsbD k = ((s.getV x).getLsbD k && (s.getV y).getLsbD k)) ∧
      t.pc = s.pc + 2#16 ∧ OnlyV [x] s t) ∧
    (∃ t, exec (.xorVxVy x y) s = .next t ∧
      (∀ k, (t.getV x).getLsbD k = xor ((s.getV x).getLsbD k) ((s.getV y).getLsbD k)) ∧
      t.pc = s.pc + 2#16 ∧ OnlyV [x] s t)

/-- ADD on registers (R71): VF is the carry and is written last. -/
def Obligations.AddSetsCarry : Prop :=
  (∀ op : Word, op &&& 0xF00F#16 = 0x8004#16 → decode op = .addVxVy (fields op).x (fields op).y) ∧
  ∀ (x y : Nibble) (s : State), ∃ t, exec (.addVxVy x y) s = .next t ∧
    t.getV 0xF#4 = (if (s.getV x).toNat + (s.getV y).toNat > 255 then 0x01#8 else 0x00#8) ∧
    (x ≠ 0xF#4 → (t.getV x).toNat = ((s.getV x).toNat + (s.getV y).toNat) % 256) ∧
    t.pc = s.pc + 2#16 ∧ OnlyV [x, 0xF#4] s t

/-- SUB and SUBN (R72, R73): VF is NOT borrow, set for equal operands, and is written last. -/
def Obligations.SubtractsSetNotBorrow : Prop :=
  (∀ op : Word, op &&& 0xF00F#16 = 0x8005#16 → decode op = .subVxVy (fields op).x (fields op).y) ∧
  (∀ op : Word, op &&& 0xF00F#16 = 0x8007#16 → decode op = .subnVxVy (fields op).x (fields op).y) ∧
  ∀ (x y : Nibble) (s : State),
    (∃ t, exec (.subVxVy x y) s = .next t ∧
      t.getV 0xF#4 = (if (s.getV y).toNat > (s.getV x).toNat then 0x00#8 else 0x01#8) ∧
      (x ≠ 0xF#4 → ((t.getV x).toNat : Int) = ((s.getV x).toNat - (s.getV y).toNat : Int) % 256) ∧
      t.pc = s.pc + 2#16 ∧ OnlyV [x, 0xF#4] s t) ∧
    (∃ t, exec (.subnVxVy x y) s = .next t ∧
      t.getV 0xF#4 = (if (s.getV x).toNat > (s.getV y).toNat then 0x00#8 else 0x01#8) ∧
      (x ≠ 0xF#4 → ((t.getV x).toNat : Int) = ((s.getV y).toNat - (s.getV x).toNat : Int) % 256) ∧
      t.pc = s.pc + 2#16 ∧ OnlyV [x, 0xF#4] s t)

/-- SHR and SHL (R74, R75): one place, y ignored, VF the bit shifted out and written last. -/
def Obligations.ShiftsSetBitShiftedOut : Prop :=
  (∀ op : Word, op &&& 0xF00F#16 = 0x8006#16 → decode op = .shrVx (fields op).x (fields op).y) ∧
  (∀ op : Word, op &&& 0xF00F#16 = 0x800E#16 → decode op = .shlVx (fields op).x (fields op).y) ∧
  ∀ (x y : Nibble) (s : State),
    (∃ t, exec (.shrVx x y) s = .next t ∧
      (t.getV 0xF#4).toNat = (s.getV x).toNat % 2 ∧ (x ≠ 0xF#4 → (t.getV x).toNat = (s.getV x).toNat / 2) ∧
      t.pc = s.pc + 2#16 ∧ OnlyV [x, 0xF#4] s t) ∧
    (∃ t, exec (.shlVx x y) s = .next t ∧
      (t.getV 0xF#4).toNat = (s.getV x).toNat / 128 ∧ (x ≠ 0xF#4 → (t.getV x).toNat = (s.getV x).toNat * 2 % 256) ∧
      t.pc = s.pc + 2#16 ∧ OnlyV [x, 0xF#4] s t)

/-! ## The display (43_display.md) -/

/-- CLS (R76). -/
def Obligations.ClsClearsDisplay : Prop :=
  (∀ op : Word, op = 0x00E0#16 → decode op = .cls) ∧
  ∀ s : State, ∃ t, exec .cls s = .next t ∧ (∀ y x, y < 32 → x < 64 → t.disp.pixel y x = false) ∧
    t.pc = s.pc + 2#16 ∧ SameV s t ∧ t.i = s.i ∧ SameStack s t ∧ SameMemory s t ∧ SameDevices s t ∧ t.fault = s.fault

/-- DRW where every row it draws is readable (R77 to R82): each pixel becomes old XOR its sprite bit, placed at the
wrapped start and clipped at the edges, and VF says whether a set bit met a pixel that was on. -/
def Obligations.DrwXorsSpriteAndReportsCollision : Prop :=
  (∀ op : Word, op &&& 0xF000#16 = 0xD000#16 → decode op = .drw (fields op).x (fields op).y (fields op).n) ∧
  ∀ (x y n : Nibble) (s : State), s.spriteReadable y n → ∃ t, exec (.drw x y n) s = .next t ∧
    (∀ r c, r < 32 → c < 64 → t.disp.pixel r c = xor (s.disp.pixel r c) (s.drawnBit x y n r c)) ∧
    (t.getV 0xF#4 = 0x01#8 ∧ (∃ r c, r < 32 ∧ c < 64 ∧ s.drawnBit x y n r c = true ∧ s.disp.pixel r c = true) ∨
      t.getV 0xF#4 = 0x00#8 ∧ ∀ r c, r < 32 → c < 64 → s.drawnBit x y n r c = true → s.disp.pixel r c = false) ∧
    t.pc = s.pc + 2#16 ∧ SameVBut [0xF#4] s t ∧ t.i = s.i ∧ SameStack s t ∧ SameMemory s t ∧ SameDevices s t ∧
    t.fault = s.fault

/-- DRW whose first unreadable drawn row is row i (R80): AddressOutOfRange, SPRITE, at I + i without wrap, and no pixel
of the rows before it is changed (60_exceptions.md R94). -/
def Obligations.DrwFaultsOnUnreadableRow : Prop :=
  ∀ (x y n : Nibble) (s : State) (i : Nat), i < n.toNat → s.startY y + i < 32 → 0xFFF < s.i.toNat + i →
    (∀ j, j < i → s.i.toNat + j ≤ 0xFFF) →
    ∃ t r, exec (.drw x y n) s = .next t ∧ OnlyFault s t ∧ t.fault = some r ∧ r.code = 3 ∧
      r.cause = .addressOutOfRange .sprite ∧ r.pc = s.pc ∧
      r.opcode = some (BitVec.ofNat 16 (0xD000 + x.toNat * 256 + y.toNat * 16 + n.toNat)) ∧
      r.addr = some (s.i.toNat + i)

/-- Drawing the same sprite twice at the same place restores every display (R81), and the second draw sets VF exactly
when some set bit on screen lies over a pixel that was off before the first draw: on a blank display, exactly when the
sprite has a set bit on screen. (R81's derived remark on the second draw's VF says so without that condition; log entry
25.) Neither coordinate register is VF, which the first draw writes. -/
def Obligations.DrawingTwiceRestoresDisplay : Prop :=
  ∀ (x y n : Nibble) (s : State), x ≠ 0xF#4 → y ≠ 0xF#4 → s.spriteReadable y n →
    ∃ t u, exec (.drw x y n) s = .next t ∧ exec (.drw x y n) t = .next u ∧ u.disp = s.disp ∧
      (u.getV 0xF#4 = 0x01#8 ↔ ∃ r c, r < 32 ∧ c < 64 ∧ s.drawnBit x y n r c = true ∧ s.disp.pixel r c = false)

/-! ## The no-op spaces (44_no_op.md) -/

/-- Every unimplemented encoding decodes to its no-op, with the fields of the word, and only advances PC (R83); the spaces
are those of R84 to R91. That class 0 is matched on the whole word is the spec's decision D28 (log entry 24); that a no-op
keeps its word's free bits is the model's (log entry 12). -/
def Obligations.UnimplementedWordsAreNoOps : Prop :=
  (∀ op : Word, op &&& 0xF000#16 = 0x0000#16 → op ≠ 0x00E0#16 → op ≠ 0x00EE#16 →
    decode op = .nop0nnn (fields op).nnn) ∧
  (∀ op : Word, op &&& 0xF000#16 = 0x5000#16 → op &&& 0x000F#16 ≠ 0#16 →
    decode op = .nop5xyn (fields op).x (fields op).y (fields op).n) ∧
  (∀ op : Word, op &&& 0xF00F#16 = 0x8008#16 → decode op = .nop8xy8 (fields op).x (fields op).y) ∧
  (∀ op : Word, op &&& 0xF00F#16 = 0x8009#16 → decode op = .nop8xy9 (fields op).x (fields op).y) ∧
  (∀ op : Word, op &&& 0xF00F#16 = 0x800A#16 → decode op = .nop8xya (fields op).x (fields op).y) ∧
  (∀ op : Word, op &&& 0xF00F#16 = 0x800B#16 → decode op = .nop8xyb (fields op).x (fields op).y) ∧
  (∀ op : Word, op &&& 0xF00F#16 = 0x800C#16 → decode op = .nop8xyc (fields op).x (fields op).y) ∧
  (∀ op : Word, op &&& 0xF00F#16 = 0x800D#16 → decode op = .nop8xyd (fields op).x (fields op).y) ∧
  (∀ op : Word, op &&& 0xF00F#16 = 0x800F#16 → decode op = .nop8xyf (fields op).x (fields op).y) ∧
  (∀ op : Word, op &&& 0xF000#16 = 0x9000#16 → op &&& 0x000F#16 ≠ 0#16 →
    decode op = .nop9xyn (fields op).x (fields op).y (fields op).n) ∧
  (∀ op : Word, op &&& 0xF000#16 = 0xB000#16 → decode op = .nopBnnn (fields op).nnn) ∧
  (∀ op : Word, op &&& 0xF000#16 = 0xC000#16 → decode op = .nopCxnn (fields op).x (fields op).nn) ∧
  (∀ op : Word, op &&& 0xF000#16 = 0xE000#16 → decode op = .nopExnn (fields op).x (fields op).nn) ∧
  (∀ op : Word, op &&& 0xF000#16 = 0xF000#16 → decode op = .nopFxnn (fields op).x (fields op).nn) ∧
  ∀ (i : Instr) (s : State), i.implemented = false → ∃ t, exec i s = .next t ∧ t.pc = s.pc + 2#16 ∧ OnlyPc s t

/-! ## Exceptions (60_exceptions.md) -/

/-- A fault in the execute phase commits nothing and records pc0 and the faulting word (R94, R95). -/
def Obligations.FaultingInstructionCommitsNothing : Prop :=
  ∀ (i : Instr) (s t : State) (r : FaultRecord), exec i s = .next t → s.fault = none → t.fault = some r →
    OnlyFault s t ∧ r.pc = s.pc ∧ r.opcode = some (encode i) ∧ r.wellFormed = true

/-- Only CALL on a full stack, RET on an empty one, and DRW with a drawn row above 0xFFF raise (R93, R97). -/
def Obligations.OnlyCallRetDrwRaise : Prop :=
  ∀ (i : Instr) (s t : State) (r : FaultRecord), exec i s = .next t → s.fault = none → t.fault = some r →
    (∃ nnn, i = .call nnn ∧ s.sp.val = 12 ∧ r.cause = .stackOverflow) ∨
    (i = .ret ∧ s.sp.val = 0 ∧ r.cause = .stackUnderflow) ∨
    (∃ x y n, i = .drw x y n ∧ ¬ s.spriteReadable y n ∧ r.cause = .addressOutOfRange .sprite)

/-- A recorded fault is terminal (R96): no step of any kind is enabled, and there is no next state, whatever is
scheduled. The stop that step answers, and that performing a step which is not enabled changes nothing, are the model's
(log entries 1 and 3). -/
def Obligations.FaultIsTerminal : Prop :=
  ∀ (s : State) (r : FaultRecord), s.fault = some r →
    step s = .fault (.stopped r) ∧ ∀ a, s.enables a = false ∧ perform a s = .next s

/-! ## Timers, keypad and run-state (60_exceptions.md) -/

/-- The tick (R102): enabled exactly in RUNNING without a fault; both timers count down by one, floored at 0, and nothing
else changes but the schedule, whose entry is taken off. In PAUSED the timers do not advance (R103): a scheduled tick is
dropped there (the model's choice, log entry 3). The schedule is the model's own (log entry 2). -/
def Obligations.TickCountsTimersDown : Prop :=
  ∀ s : State,
    (s.enables .tick = true ↔ s.run = .running ∧ s.fault = none) ∧
    ∀ rest, s.fault = none → s.schedule = .tick :: rest →
      (s.run = .running → ∃ t, step s = .next t ∧ t.dt.toNat = s.dt.toNat - 1 ∧ t.st.toNat = s.st.toNat - 1 ∧
        SameCpu s t ∧ t.key = s.key ∧ t.run = s.run ∧ t.schedule = rest) ∧
      (s.run = .paused → step s = .next (s.setSchedule rest))

/-- The sound signal (R109): on exactly while ST is not 0, so the tick from 1 turns it off and a tick of 0 leaves it
off. -/
def Obligations.SoundFollowsSoundTimer : Prop :=
  ∀ s : State, (s.soundOn = true ↔ s.st.toNat ≠ 0) ∧ (s.tick.soundOn = true ↔ 1 < s.st.toNat)

/-- No instruction reads or writes the timers (R104): from states that differ in DT and ST alone, an instruction step
leads to states that differ in DT and ST alone. -/
def Obligations.TimersDoNotAffectInstructions : Prop :=
  ∀ (s : State) (d u : Byte), ∃ t, instructionStep s = .next t ∧
    instructionStep (s.setTimers d u) = .next (t.setTimers d u) ∧ t.dt = s.dt ∧ t.st = s.st

/-- A tick before an instruction step and the tick after it lead to the same state, as long as the instruction raises
nothing (R104; after a fault no tick is enabled, R96). The two orders are two schedules (log entry 2). -/
def Obligations.TickCommutesWithInstruction : Prop :=
  ∀ (s : State) (rest : List Action), s.run = .running → s.fault = none →
    (∀ t, instructionStep s = .next t → t.fault = none) →
    ∃ t, core.run 2 (s.setSchedule (.tick :: .instruction :: rest)) = .next t ∧
      core.run 2 (s.setSchedule (.instruction :: .tick :: rest)) = .next t

/-- No instruction reads or writes the keypad (10_state.md R24). -/
def Obligations.KeypadDoesNotAffectInstructions : Prop :=
  ∀ (s : State) (k : Nibble) (b : Bool), ∃ t, instructionStep s = .next t ∧
    instructionStep (s.setKey k b) = .next (t.setKey k b) ∧ t.key = s.key

/-- The host's keypad write (R108): enabled outside QUIT without a fault, so in RUNNING and in PAUSED; one key changes.
It comes from the schedule (log entries 2 and 21). -/
def Obligations.SetKeyWritesOneKey : Prop :=
  ∀ (s : State) (k : Nibble) (b : Bool),
    (s.enables (.setKey k b) = true ↔ s.run ≠ .quit ∧ s.fault = none) ∧
    ∀ rest, s.fault = none → s.run ≠ .quit → s.schedule = .setKey k b :: rest →
      ∃ t, step s = .next t ∧ t.getKey k = b ∧ (∀ q, q ≠ k → t.getKey q = s.getKey q) ∧ SameCpu s t ∧ t.dt = s.dt ∧
        t.st = s.st ∧ t.run = s.run ∧ t.schedule = rest

/-- The run-state transitions (R110): the initial state, the table's rows, that a transition changes no other state, that
PAUSED enables neither an instruction step nor a tick, and QUIT and a recorded fault nothing. That an event comes from the
schedule is the model's (log entry 2), and so is the stop that step answers in QUIT (log entry 4). -/
def Obligations.RunStateTransitions : Prop :=
  (∀ (initial : State) (glyphs : Vector Byte 80) (rom : List Byte) (s : State),
    bootWith initial glyphs rom = .next s → s.run = .running) ∧
  ∀ s : State,
    (s.fault = none → ∀ rest,
      (s.schedule = .togglePause :: rest → s.run = .running →
        step s = .next { s with run := .paused, schedule := rest }) ∧
      (s.schedule = .togglePause :: rest → s.run = .paused →
        step s = .next { s with run := .running, schedule := rest }) ∧
      (s.schedule = .quit :: rest → s.run ≠ .quit → step s = .next { s with run := .quit, schedule := rest })) ∧
    (s.fault = none → s.run = .quit → step s = .fault .quit) ∧
    (s.run = .quit ∨ s.fault ≠ none → ∀ a, s.enables a = false) ∧
    (s.run = .paused → s.enables .instruction = false ∧ s.enables .tick = false)

/-- PAUSED waits (R114): no instruction step is enabled and all state survives. That step answers the same state when
nothing is scheduled, and drops a scheduled instruction step, is the model's choice (log entries 2 and 3). -/
def Obligations.PausedWaitsUnchanged : Prop :=
  ∀ s : State, s.fault = none → s.run = .paused →
    s.enables .instruction = false ∧ s.enables .tick = false ∧
    (s.schedule = [] → step s = .next s) ∧
    (∀ rest, s.schedule = .instruction :: rest → step s = .next (s.setSchedule rest))

/-! ## The whole machine -/

/-- Every step keeps the invariant: canonical memory, I at most 0xFFF, PC at most 0x1002, return addresses at most
0x1000, a precise and well-formed fault record (10_state.md R17, R18; 60_exceptions.md R94, R95). -/
def Obligations.StepKeepsInvariant : Prop :=
  ∀ s t : State, s.Inv → step s = .next t → t.Inv

/-- The invariant holds after reset, and after every boot from initial values of RESET_V with canonical memory and I at
most 0xFFF (a draw of I above that is above it until the first ANNN). -/
def Obligations.BootEstablishesInvariant : Prop :=
  State.reset.Inv ∧ ∀ (initial : State) (glyphs : Vector Byte 80) (rom : List Byte) (s : State),
    initial.mem.wf = true → initial.i.toNat ≤ 0xFFF → bootWith initial glyphs rom = .next s → s.Inv

/-- Memory is never written (20_memory.md R38): no step of any agent changes it. -/
def Obligations.NoStepWritesMemory : Prop :=
  ∀ s t : State, step s = .next t → t.mem = s.mem ∧ SameMemory s t

/-- The registers an instruction leaves alone (10_state.md R15, R16): all but those its row of R16's table writes, VF
among them. -/
def Obligations.OnlyListedRegistersWritten : Prop :=
  ∀ (i : Instr) (s t : State), exec i s = .next t → ∀ r, r ∉ writesV i → t.getV r = s.getV r

/-- Who writes what (10_state.md R17, R20, R21, R23 to R26): I only ANNN; the stack only CALL and RET; the display only
CLS and DRW; keypad, timers, run-state and memory no instruction. -/
def Obligations.OnlyTheirWritersChangeState : Prop :=
  ∀ (i : Instr) (s t : State), exec i s = .next t →
    ((∀ nnn, i ≠ .ldINnn nnn) → t.i = s.i) ∧
    ((∀ nnn, i ≠ .call nnn) → i ≠ .ret → SameStack s t) ∧
    (i ≠ .cls → (∀ x y n, i ≠ .drw x y n) → SameDisplay s t) ∧
    SameDevices s t ∧ SameMemory s t

/-- An instruction that transfers no control and raises nothing leaves PC at the next word (10_state.md R18, 30_encoding.md
R52). -/
def Obligations.SequentialInstructionsAdvancePc : Prop :=
  ∀ (i : Instr) (s t : State), exec i s = .next t → transfersControl i = false → s.fault = none → t.fault = none →
    t.pc.toNat = (s.pc.toNat + 2) % 2 ^ 16

/-- A spin repeats (70_reset_and_hazards.md R124): the instruction step of a spin changes nothing, so
with nothing scheduled (log entry 2) no number of steps does. -/
def Obligations.SpinRepeatsForever : Prop :=
  ∀ s : State, s.spin → s.schedule = [] → step s = .next s ∧ ∀ k, core.run k s = .next s

/-- The unoccupied stack entries are not observable (10_state.md R20): writing one of them changes no part of what an
instruction leads to but unoccupied entries. -/
def Obligations.UnoccupiedEntriesUnobservable : Prop :=
  ∀ (i : Instr) (s : State) (k : Nat) (hk : k < 12) (w : Word), s.sp.val ≤ k →
    ∃ t t', exec i s = .next t ∧ exec i { s with stack := s.stack.set k w hk } = .next t' ∧
      t' = { t with stack := t'.stack } ∧ ∀ j (hj : j < 12), j < t.sp.val → t'.stack[j]'hj = t.stack[j]'hj

/-! ## Memory, reset and boot (20_memory.md, 70_reset_and_hazards.md) -/

/-- Memories in canonical form that read the same are the same data (the model's form of memory, log entry 7). -/
def Obligations.CanonicalMemoryIsUnique : Prop :=
  ∀ m m' : Memory, m.wf = true → m'.wf = true → (∀ a, m.read a = m'.read a) → m = m'

/-- The values after boot (R118) with an empty ROM. The font's bytes are those of the table of 20_memory.md R33,
one glyph a line, the spec's default from general knowledge (log entry 8), the zeros and offs its own decisions D1 to D5 and D16 (log entries 5, 6, 7, 14); the empty schedule is the
model's (log entry 2). -/
def Obligations.ResetHasBootValues : Prop :=
  State.reset.pc = 0x200#16 ∧ State.reset.sp.val = 0 ∧ State.reset.run = .running ∧ State.reset.fault = none ∧
    (∀ r, State.reset.getV r = 0#8) ∧ State.reset.i = 0#16 ∧ State.reset.dt = 0#8 ∧ State.reset.st = 0#8 ∧
    (∀ k, State.reset.getKey k = false) ∧ (∀ y x, State.reset.disp.pixel y x = false) ∧
    (∀ k (h : k < 12), State.reset.stack[k]'h = 0#16) ∧
    (List.range 80).map State.reset.mem.read =
      [0xF0#8, 0x90#8, 0x90#8, 0x90#8, 0xF0#8] ++
      [0x20#8, 0x60#8, 0x20#8, 0x20#8, 0x70#8] ++
      [0xF0#8, 0x10#8, 0xF0#8, 0x80#8, 0xF0#8] ++
      [0xF0#8, 0x10#8, 0xF0#8, 0x10#8, 0xF0#8] ++
      [0x90#8, 0x90#8, 0xF0#8, 0x10#8, 0x10#8] ++
      [0xF0#8, 0x80#8, 0xF0#8, 0x10#8, 0xF0#8] ++
      [0xF0#8, 0x80#8, 0xF0#8, 0x90#8, 0xF0#8] ++
      [0xF0#8, 0x10#8, 0x20#8, 0x40#8, 0x40#8] ++
      [0xF0#8, 0x90#8, 0xF0#8, 0x90#8, 0xF0#8] ++
      [0xF0#8, 0x90#8, 0xF0#8, 0x10#8, 0xF0#8] ++
      [0xF0#8, 0x90#8, 0xF0#8, 0x90#8, 0x90#8] ++
      [0xE0#8, 0x90#8, 0xE0#8, 0x90#8, 0xE0#8] ++
      [0xF0#8, 0x80#8, 0x80#8, 0x80#8, 0xF0#8] ++
      [0xE0#8, 0x90#8, 0x90#8, 0x90#8, 0xE0#8] ++
      [0xF0#8, 0x80#8, 0xF0#8, 0x80#8, 0xF0#8] ++
      [0xF0#8, 0x80#8, 0xF0#8, 0x80#8, 0x80#8] ∧
    (∀ a, 0x50 ≤ a → State.reset.mem.read a = 0#8) ∧ State.reset.schedule = []

/-- Boot (R115 to R118), from any initial values of RESET_V and any FONT: a ROM of at most 3584 bytes loads, verbatim from
0x200, beside the font at 0x000 to 0x04F; every other byte and every other element keeps its initial value but for PC =
0x200, an empty stack, RUNNING, no fault; with the default values the other bytes are zero. A longer ROM creates no
machine, which boot answers as a stop (log entry 10). -/
def Obligations.BootLoadsFontAndRom : Prop :=
  ∀ (initial : State) (glyphs : Vector Byte 80) (rom : List Byte),
    (rom.length ≤ 3584 → initial.mem.wf = true → ∃ s, bootWith initial glyphs rom = .next s ∧
      (∀ k (h : k < 80), s.mem.read k = glyphs[k]'h) ∧
      (∀ k (h : k < rom.length), s.mem.read (0x200 + k) = rom[k]'h) ∧
      (∀ a, 0x50 ≤ a → a < 0x200 ∨ 0x200 + rom.length ≤ a → s.mem.read a = initial.mem.read a) ∧
      s.pc = 0x200#16 ∧ s.sp.val = 0 ∧ s.run = .running ∧ s.fault = none ∧
      s = { initial with mem := s.mem, pc := s.pc, sp := s.sp, run := s.run, fault := s.fault }) ∧
    (3584 < rom.length → bootWith initial glyphs rom = .fault (.romTooLong rom.length)) ∧
    (∀ a, 0x50 ≤ a → State.reset.mem.read a = 0#8)
end

