-- ==== Sys2Proof/Laws/Decode.lean ====
section
/-! SUPPORT. The fields of a word and the three layouts of 30_encoding.md R44: what the decoder and the encoder share. -/

namespace Sys2Proof

/-- Concatenation on numbers. -/
theorem shiftLeft_or (a b k : Nat) (h : b < 2 ^ k) : a <<< k ||| b = a * 2 ^ k + b := by
  rw [← Nat.shiftLeft_add_eq_or_of_lt h, Nat.shiftLeft_eq]

/-! The layouts as numbers -/

theorem toNat_wordNNN (c : Nibble) (a : Addr12) : (wordNNN c a).toNat = c.toNat * 4096 + a.toNat :=
  (BitVec.toNat_append c a).trans (shiftLeft_or _ _ 12 a.isLt)

theorem toNat_wordXNN (c x : Nibble) (b : Byte) :
    (wordXNN c x b).toNat = c.toNat * 4096 + x.toNat * 256 + b.toNat := by
  refine (BitVec.toNat_append (c ++ x) b).trans ?_
  rw [BitVec.toNat_append c x, shiftLeft_or _ _ 4 x.isLt, shiftLeft_or _ _ 8 b.isLt]; omega

theorem toNat_wordXYN (c x y n : Nibble) :
    (wordXYN c x y n).toNat = c.toNat * 4096 + x.toNat * 256 + y.toNat * 16 + n.toNat := by
  refine (BitVec.toNat_append (c ++ x ++ y) n).trans ?_
  rw [BitVec.toNat_append (c ++ x) y, BitVec.toNat_append c x, shiftLeft_or _ _ 4 x.isLt, shiftLeft_or _ _ 4 y.isLt,
    shiftLeft_or _ _ 4 n.isLt]; omega

/-! The fields as numbers (R7: bit 0 is the least significant) -/

theorem toNat_class (w : Word) : (fields w).opClass.toNat = w.toNat / 4096 := by
  simp [fields, Nat.shiftRight_eq_div_pow]; omega

theorem toNat_x (w : Word) : (fields w).x.toNat = w.toNat / 256 % 16 := by
  simp [fields, Nat.shiftRight_eq_div_pow]

theorem toNat_y (w : Word) : (fields w).y.toNat = w.toNat / 16 % 16 := by
  simp [fields, Nat.shiftRight_eq_div_pow]

theorem toNat_n (w : Word) : (fields w).n.toNat = w.toNat % 16 := by
  simp [fields, Nat.shiftRight_eq_div_pow]

theorem toNat_nn (w : Word) : (fields w).nn.toNat = w.toNat % 256 := by
  simp [fields, Nat.shiftRight_eq_div_pow]

theorem toNat_nnn (w : Word) : (fields w).nnn.toNat = w.toNat % 4096 := by
  simp [fields, Nat.shiftRight_eq_div_pow]

/-! The fields of a word that a layout built -/

theorem fields_wordNNN (c : Nibble) (a : Addr12) :
    (fields (wordNNN c a)).opClass = c ∧ (fields (wordNNN c a)).nnn = a := by
  constructor <;> apply BitVec.eq_of_toNat_eq <;> simp only [toNat_class, toNat_nnn, toNat_wordNNN] <;> omega

theorem fields_wordXNN (c x : Nibble) (b : Byte) :
    (fields (wordXNN c x b)).opClass = c ∧ (fields (wordXNN c x b)).x = x ∧ (fields (wordXNN c x b)).nn = b := by
  refine ⟨?_, ?_, ?_⟩ <;> apply BitVec.eq_of_toNat_eq <;>
    simp only [toNat_class, toNat_x, toNat_nn, toNat_wordXNN] <;> omega

theorem fields_wordXYN (c x y n : Nibble) :
    (fields (wordXYN c x y n)).opClass = c ∧ (fields (wordXYN c x y n)).x = x ∧ (fields (wordXYN c x y n)).y = y ∧
      (fields (wordXYN c x y n)).n = n := by
  refine ⟨?_, ?_, ?_, ?_⟩ <;> apply BitVec.eq_of_toNat_eq <;>
    simp only [toNat_class, toNat_x, toNat_y, toNat_n, toNat_wordXYN] <;> omega


/-! Every word in each layout -/

theorem word_as_NNN (w : Word) : wordNNN (fields w).opClass (fields w).nnn = w := by
  apply BitVec.eq_of_toNat_eq; simp only [toNat_wordNNN, toNat_class, toNat_nnn]; omega

theorem word_as_XNN (w : Word) : wordXNN (fields w).opClass (fields w).x (fields w).nn = w := by
  apply BitVec.eq_of_toNat_eq; simp only [toNat_wordXNN, toNat_class, toNat_x, toNat_nn]; omega

theorem word_as_XYN (w : Word) : wordXYN (fields w).opClass (fields w).x (fields w).y (fields w).n = w := by
  apply BitVec.eq_of_toNat_eq; simp only [toNat_wordXYN, toNat_class, toNat_x, toNat_y, toNat_n]; omega


/-! Masks of the opcode map (R50) -/

theorem and_wordXYN (c x y n c' x' y' n' : Nibble) :
    wordXYN c x y n &&& wordXYN c' x' y' n' = wordXYN (c &&& c') (x &&& x') (y &&& y') (n &&& n') := by
  apply BitVec.eq_of_getLsbD_eq
  intro i _
  simp only [wordXYN, BitVec.getLsbD_and]
  erw [BitVec.getLsbD_append, BitVec.getLsbD_append, BitVec.getLsbD_append]
  simp only [BitVec.getLsbD_append, BitVec.getLsbD_and]
  split <;> [rfl; split] <;> [rfl; split] <;> rfl

theorem nibble_and_ones (x : Nibble) : x &&& 0xF#4 = x := by revert x; decide

/-- Mask F000 keeps the class nibble. -/
theorem mask_F000 (w : Word) : w &&& 0xF000#16 = wordXYN (fields w).opClass 0#4 0#4 0#4 := by
  conv_lhs => rw [← word_as_XYN w, show 0xF000#16 = wordXYN 0xF#4 0#4 0#4 0#4 from rfl, and_wordXYN]
  simp only [nibble_and_ones, BitVec.and_zero]

/-- Mask F00F keeps the class nibble and the low nibble. -/
theorem mask_F00F (w : Word) : w &&& 0xF00F#16 = wordXYN (fields w).opClass 0#4 0#4 (fields w).n := by
  conv_lhs => rw [← word_as_XYN w, show 0xF00F#16 = wordXYN 0xF#4 0#4 0#4 0xF#4 from rfl, and_wordXYN]
  simp only [nibble_and_ones, BitVec.and_zero]

/-- A mask-F000 row selects by the class nibble. -/
theorem selects_F000 (w : Word) (c : Nibble) : w &&& 0xF000#16 = wordXYN c 0#4 0#4 0#4 ↔ (fields w).opClass = c := by
  rw [mask_F000]
  constructor
  · intro h
    have := congrArg (fun u => (fields u).opClass) h
    simpa [(fields_wordXYN _ _ _ _).1] using this
  · rintro rfl; rfl

/-- A mask-F00F row selects by the class nibble and the low nibble. -/
theorem selects_F00F (w : Word) (c n : Nibble) :
    w &&& 0xF00F#16 = wordXYN c 0#4 0#4 n ↔ (fields w).opClass = c ∧ (fields w).n = n := by
  rw [mask_F00F]
  constructor
  · intro h
    have h1 := congrArg (fun u => (fields u).opClass) h
    have h2 := congrArg (fun u => (fields u).n) h
    simpa [(fields_wordXYN _ _ _ _).1, (fields_wordXYN _ _ _ _).2.2.2] using And.intro h1 h2
  · rintro ⟨rfl, rfl⟩; rfl

/-- The bytes of a word, put together again (20_memory.md R34). -/
theorem wordOfBytes_bytes (w : Word) : wordOfBytes (w.extractLsb' 8 8) (w.extractLsb' 0 8) = w := by
  apply BitVec.eq_of_toNat_eq
  refine (BitVec.toNat_append _ _).trans ?_
  rw [shiftLeft_or _ _ 8 (BitVec.isLt _)]
  simp [Nat.shiftRight_eq_div_pow]
  omega

end Sys2Proof
end

