-- ==== Sys2Proof/Laws/Memory.lean ====
section
/-! SUPPORT. Memory: a read after a write, and that every memory operation keeps the canonical form. -/

namespace Sys2Proof.Machine

/-! ## The canonical form -/

theorem Memory.wfFrom_cons (lo a : Nat) (b : Byte) (m : Memory) :
    Memory.wfFrom lo ((a, b) :: m) = true ↔
      lo ≤ a ∧ a < 4096 ∧ b ≠ Memory.unlisted a ∧ Memory.wfFrom (a + 1) m = true := by
  simp only [Memory.wfFrom, Bool.and_eq_true, decide_eq_true_eq, and_assoc]
  rfl

theorem Memory.wfFrom_le {lo lo' : Nat} {m : Memory} (hle : lo' ≤ lo) (h : Memory.wfFrom lo m = true) :
    Memory.wfFrom lo' m = true := by
  cases m with
  | nil => rfl
  | cons c m =>
    obtain ⟨a, b⟩ := c
    rw [Memory.wfFrom_cons] at h ⊢
    exact ⟨hle.trans h.1, h.2⟩

/-- No address below the bound is listed. -/
theorem Memory.lookup_below {lo k : Nat} {m : Memory} (h : Memory.wfFrom lo m = true) (hk : k < lo) :
    m.lookup k = none := by
  induction m generalizing lo with
  | nil => rfl
  | cons c m ih =>
    obtain ⟨a, b⟩ := c
    rw [Memory.wfFrom_cons] at h
    have hne : a ≠ k := by omega
    simpa [Memory.lookup, hne] using ih h.2.2.2 (by omega)

theorem Memory.wfFrom_insert {lo k : Nat} {b : Byte} {m : Memory} (h : Memory.wfFrom lo m = true) (hlo : lo ≤ k)
    (hk : k < 4096) (hb : b ≠ Memory.unlisted k) : Memory.wfFrom lo (m.insert k b) = true := by
  induction m generalizing lo with
  | nil => exact (Memory.wfFrom_cons _ _ _ _).2 ⟨hlo, hk, hb, rfl⟩
  | cons c m ih =>
    obtain ⟨a, d⟩ := c
    have h' := (Memory.wfFrom_cons _ _ _ _).1 h
    unfold Memory.insert
    split
    · exact (Memory.wfFrom_cons _ _ _ _).2
        ⟨hlo, hk, hb, (Memory.wfFrom_cons _ _ _ _).2 ⟨by omega, h'.2⟩⟩
    · split
      · rename_i e
        subst e
        exact (Memory.wfFrom_cons _ _ _ _).2 ⟨hlo, hk, hb, h'.2.2.2⟩
      · exact (Memory.wfFrom_cons _ _ _ _).2 ⟨h'.1, h'.2.1, h'.2.2.1, ih h'.2.2.2 (by omega)⟩

theorem Memory.wfFrom_erase {lo k : Nat} {m : Memory} (h : Memory.wfFrom lo m = true) :
    Memory.wfFrom lo (m.erase k) = true := by
  induction m generalizing lo with
  | nil => rfl
  | cons c m ih =>
    obtain ⟨a, d⟩ := c
    have h' := (Memory.wfFrom_cons _ _ _ _).1 h
    unfold Memory.erase
    split
    · exact Memory.wfFrom_le (by omega) h'.2.2.2
    · exact (Memory.wfFrom_cons _ _ _ _).2 ⟨h'.1, h'.2.1, h'.2.2.1, ih h'.2.2.2⟩

/-- A write keeps the canonical form. -/
theorem Memory.wf_write {m : Memory} (k : Nat) (b : Byte) (h : m.wf = true) : (m.write k b).wf = true := by
  unfold Memory.write
  split
  · split
    · exact Memory.wfFrom_erase h
    · exact Memory.wfFrom_insert h (Nat.zero_le _) (by assumption) (by assumption)
  · exact h

/-- Writing consecutive bytes keeps the canonical form. -/
theorem Memory.wf_writeBytes {m : Memory} (a : Nat) (bs : List Byte) (h : m.wf = true) :
    (m.writeBytes a bs).wf = true := by
  induction bs generalizing m a with
  | nil => exact h
  | cons b bs ih => exact ih (a + 1) (Memory.wf_write a b h)

/-! ## Read after write -/

theorem Memory.lookup_insert (m : Memory) (k j : Nat) (b : Byte) :
    (m.insert k b).lookup j = if j = k then some b else m.lookup j := by
  induction m with
  | nil => simp [Memory.insert, Memory.lookup, eq_comm]
  | cons c m ih =>
    obtain ⟨a, d⟩ := c
    unfold Memory.insert
    split
    · simp [Memory.lookup, eq_comm]
    · split
      · rename_i e
        subst e
        by_cases hj : j = k
        · subst hj; simp [Memory.lookup]
        · simp [Memory.lookup, hj, Ne.symm hj]
      · by_cases ha : a = j
        · subst ha
          have : a ≠ k := by omega
          simp [Memory.lookup, this]
        · simp [Memory.lookup, ha, ih]

theorem Memory.lookup_erase {lo : Nat} {m : Memory} (k j : Nat) (h : Memory.wfFrom lo m = true) :
    (m.erase k).lookup j = if j = k then none else m.lookup j := by
  induction m generalizing lo with
  | nil => simp [Memory.erase, Memory.lookup]
  | cons c m ih =>
    obtain ⟨a, d⟩ := c
    have h' := (Memory.wfFrom_cons _ _ _ _).1 h
    unfold Memory.erase
    split
    · rename_i e
      subst e
      by_cases hj : j = a
      · subst hj; simpa using Memory.lookup_below h'.2.2.2 (Nat.lt_succ_self _)
      · simp [Memory.lookup, hj, Ne.symm hj]
    · by_cases ha : a = j
      · subst ha
        rename_i hne
        simp [Memory.lookup, hne]
      · simp [Memory.lookup, ha, ih h'.2.2.2]

/-- A read after a write: the byte written at its address, every other byte as before. -/
theorem Memory.read_write {m : Memory} {k : Nat} (j : Nat) (b : Byte) (h : m.wf = true) (hk : k < 4096) :
    (m.write k b).read j = if j = k then b else m.read j := by
  unfold Memory.write Memory.read
  rw [if_pos (show k < Config.memSize from hk)]
  split
  · rename_i e
    rw [Memory.lookup_erase k j h]
    split
    · rename_i hj; rw [hj, e]; rfl
    · rfl
  · rw [Memory.lookup_insert]
    split <;> rfl

/-- A read after writing consecutive bytes inside the address space. -/
theorem Memory.read_writeBytes {m : Memory} (a j : Nat) (bs : List Byte) (h : m.wf = true)
    (ha : a + bs.length ≤ 4096) :
    (m.writeBytes a bs).read j = if a ≤ j ∧ j < a + bs.length then bs.getD (j - a) 0#8 else m.read j := by
  induction bs generalizing m a with
  | nil =>
    simp [Memory.writeBytes]
  | cons b bs ih =>
    simp only [List.length_cons] at ha
    rw [Memory.writeBytes, ih (a + 1) (Memory.wf_write a b h) (by omega), Memory.read_write j b h (by omega)]
    simp only [List.length_cons]
    by_cases hj : j = a
    · subst hj
      have h2 : j ≤ j ∧ j < j + (bs.length + 1) := by omega
      simp [h2]
    · by_cases hin : a ≤ j ∧ j < a + (bs.length + 1)
      · have h1 : a + 1 ≤ j ∧ j < a + 1 + bs.length := by omega
        rw [if_pos h1, if_pos hin, show j - a = (j - (a + 1)) + 1 by omega, List.getD_cons_succ]
      · have h1 : ¬ (a + 1 ≤ j ∧ j < a + 1 + bs.length) := by omega
        rw [if_neg h1, if_neg hin, if_neg hj]

/-! ## MemRead -/

theorem Memory.read8_ok {m : Memory} {a : Nat} (h : a < 4096) : m.read8 a = .ok (m.read a) := if_pos h

theorem Memory.read8_error {m : Memory} {a : Nat} (h : 4096 ≤ a) : m.read8 a = .error a :=
  if_neg (Nat.not_lt.2 h)

/-- MemRead(a, 2) inside the address space. -/
theorem Memory.read16_ok {m : Memory} {a : Nat} (h : a < 4095) :
    m.read16 a = .ok (wordOfBytes (m.read a) (m.read (a + 1))) := by
  simp [Memory.read16, Memory.read8_ok (show a < 4096 by omega), Memory.read8_ok (show a + 1 < 4096 by omega)]

/-- MemRead(a, 2) that needs a byte above 0xFFF: the first such address (00_scope.md R10). -/
theorem Memory.read16_error {m : Memory} {a : Nat} (h : 4095 ≤ a) :
    m.read16 a = .error (if a = 4095 then 4096 else a) := by
  unfold Memory.read16
  by_cases ha : a = 4095
  · subst ha
    simp [Memory.read8_ok (m := m) (show 4095 < 4096 by omega), Memory.read8_error (m := m) (Nat.le_refl 4096)]
  · simp [Memory.read8_error (m := m) (show 4096 ≤ a by omega), ha]

end Sys2Proof.Machine
end

