-- ==== Sys2Proof/Laws/State.lean ====
section
/-! SUPPORT. One lemma per field per update of the state, so that no proof unfolds a record update. -/

namespace Sys2Proof.Machine

variable (s : State)

/-! `setV` -/

@[simp] theorem State.setV_mem (r : Nibble) (b : Byte) : (s.setV r b).mem = s.mem := rfl
@[simp] theorem State.setV_v (r : Nibble) (b : Byte) : (s.setV r b).v = s.v.set r.toNat b r.isLt := rfl
@[simp] theorem State.setV_i (r : Nibble) (b : Byte) : (s.setV r b).i = s.i := rfl
@[simp] theorem State.setV_pc (r : Nibble) (b : Byte) : (s.setV r b).pc = s.pc := rfl
@[simp] theorem State.setV_stack (r : Nibble) (b : Byte) : (s.setV r b).stack = s.stack := rfl
@[simp] theorem State.setV_sp (r : Nibble) (b : Byte) : (s.setV r b).sp = s.sp := rfl
@[simp] theorem State.setV_disp (r : Nibble) (b : Byte) : (s.setV r b).disp = s.disp := rfl
@[simp] theorem State.setV_key (r : Nibble) (b : Byte) : (s.setV r b).key = s.key := rfl
@[simp] theorem State.setV_dt (r : Nibble) (b : Byte) : (s.setV r b).dt = s.dt := rfl
@[simp] theorem State.setV_st (r : Nibble) (b : Byte) : (s.setV r b).st = s.st := rfl
@[simp] theorem State.setV_run (r : Nibble) (b : Byte) : (s.setV r b).run = s.run := rfl
@[simp] theorem State.setV_fault (r : Nibble) (b : Byte) : (s.setV r b).fault = s.fault := rfl
@[simp] theorem State.setV_schedule (r : Nibble) (b : Byte) : (s.setV r b).schedule = s.schedule := rfl

/-! `setI` -/

@[simp] theorem State.setI_mem (w : Word) : (s.setI w).mem = s.mem := rfl
@[simp] theorem State.setI_v (w : Word) : (s.setI w).v = s.v := rfl
@[simp] theorem State.setI_i (w : Word) : (s.setI w).i = w := rfl
@[simp] theorem State.setI_pc (w : Word) : (s.setI w).pc = s.pc := rfl
@[simp] theorem State.setI_stack (w : Word) : (s.setI w).stack = s.stack := rfl
@[simp] theorem State.setI_sp (w : Word) : (s.setI w).sp = s.sp := rfl
@[simp] theorem State.setI_disp (w : Word) : (s.setI w).disp = s.disp := rfl
@[simp] theorem State.setI_key (w : Word) : (s.setI w).key = s.key := rfl
@[simp] theorem State.setI_dt (w : Word) : (s.setI w).dt = s.dt := rfl
@[simp] theorem State.setI_st (w : Word) : (s.setI w).st = s.st := rfl
@[simp] theorem State.setI_run (w : Word) : (s.setI w).run = s.run := rfl
@[simp] theorem State.setI_fault (w : Word) : (s.setI w).fault = s.fault := rfl
@[simp] theorem State.setI_schedule (w : Word) : (s.setI w).schedule = s.schedule := rfl

/-! `setPc` -/

@[simp] theorem State.setPc_mem (w : Word) : (s.setPc w).mem = s.mem := rfl
@[simp] theorem State.setPc_v (w : Word) : (s.setPc w).v = s.v := rfl
@[simp] theorem State.setPc_i (w : Word) : (s.setPc w).i = s.i := rfl
@[simp] theorem State.setPc_pc (w : Word) : (s.setPc w).pc = w := rfl
@[simp] theorem State.setPc_stack (w : Word) : (s.setPc w).stack = s.stack := rfl
@[simp] theorem State.setPc_sp (w : Word) : (s.setPc w).sp = s.sp := rfl
@[simp] theorem State.setPc_disp (w : Word) : (s.setPc w).disp = s.disp := rfl
@[simp] theorem State.setPc_key (w : Word) : (s.setPc w).key = s.key := rfl
@[simp] theorem State.setPc_dt (w : Word) : (s.setPc w).dt = s.dt := rfl
@[simp] theorem State.setPc_st (w : Word) : (s.setPc w).st = s.st := rfl
@[simp] theorem State.setPc_run (w : Word) : (s.setPc w).run = s.run := rfl
@[simp] theorem State.setPc_fault (w : Word) : (s.setPc w).fault = s.fault := rfl
@[simp] theorem State.setPc_schedule (w : Word) : (s.setPc w).schedule = s.schedule := rfl

/-! `advance` -/

@[simp] theorem State.advance_mem : (s.advance).mem = s.mem := rfl
@[simp] theorem State.advance_v : (s.advance).v = s.v := rfl
@[simp] theorem State.advance_i : (s.advance).i = s.i := rfl
@[simp] theorem State.advance_pc : (s.advance).pc = s.pc + 2#16 := rfl
@[simp] theorem State.advance_stack : (s.advance).stack = s.stack := rfl
@[simp] theorem State.advance_sp : (s.advance).sp = s.sp := rfl
@[simp] theorem State.advance_disp : (s.advance).disp = s.disp := rfl
@[simp] theorem State.advance_key : (s.advance).key = s.key := rfl
@[simp] theorem State.advance_dt : (s.advance).dt = s.dt := rfl
@[simp] theorem State.advance_st : (s.advance).st = s.st := rfl
@[simp] theorem State.advance_run : (s.advance).run = s.run := rfl
@[simp] theorem State.advance_fault : (s.advance).fault = s.fault := rfl
@[simp] theorem State.advance_schedule : (s.advance).schedule = s.schedule := rfl

/-! `setDisp` -/

@[simp] theorem State.setDisp_mem (d : Display) : (s.setDisp d).mem = s.mem := rfl
@[simp] theorem State.setDisp_v (d : Display) : (s.setDisp d).v = s.v := rfl
@[simp] theorem State.setDisp_i (d : Display) : (s.setDisp d).i = s.i := rfl
@[simp] theorem State.setDisp_pc (d : Display) : (s.setDisp d).pc = s.pc := rfl
@[simp] theorem State.setDisp_stack (d : Display) : (s.setDisp d).stack = s.stack := rfl
@[simp] theorem State.setDisp_sp (d : Display) : (s.setDisp d).sp = s.sp := rfl
@[simp] theorem State.setDisp_disp (d : Display) : (s.setDisp d).disp = d := rfl
@[simp] theorem State.setDisp_key (d : Display) : (s.setDisp d).key = s.key := rfl
@[simp] theorem State.setDisp_dt (d : Display) : (s.setDisp d).dt = s.dt := rfl
@[simp] theorem State.setDisp_st (d : Display) : (s.setDisp d).st = s.st := rfl
@[simp] theorem State.setDisp_run (d : Display) : (s.setDisp d).run = s.run := rfl
@[simp] theorem State.setDisp_fault (d : Display) : (s.setDisp d).fault = s.fault := rfl
@[simp] theorem State.setDisp_schedule (d : Display) : (s.setDisp d).schedule = s.schedule := rfl

/-! `setKey` -/

@[simp] theorem State.setKey_mem (k : Nibble) (b : Bool) : (s.setKey k b).mem = s.mem := rfl
@[simp] theorem State.setKey_v (k : Nibble) (b : Bool) : (s.setKey k b).v = s.v := rfl
@[simp] theorem State.setKey_i (k : Nibble) (b : Bool) : (s.setKey k b).i = s.i := rfl
@[simp] theorem State.setKey_pc (k : Nibble) (b : Bool) : (s.setKey k b).pc = s.pc := rfl
@[simp] theorem State.setKey_stack (k : Nibble) (b : Bool) : (s.setKey k b).stack = s.stack := rfl
@[simp] theorem State.setKey_sp (k : Nibble) (b : Bool) : (s.setKey k b).sp = s.sp := rfl
@[simp] theorem State.setKey_disp (k : Nibble) (b : Bool) : (s.setKey k b).disp = s.disp := rfl
@[simp] theorem State.setKey_key (k : Nibble) (b : Bool) : (s.setKey k b).key = s.key.set k.toNat b k.isLt := rfl
@[simp] theorem State.setKey_dt (k : Nibble) (b : Bool) : (s.setKey k b).dt = s.dt := rfl
@[simp] theorem State.setKey_st (k : Nibble) (b : Bool) : (s.setKey k b).st = s.st := rfl
@[simp] theorem State.setKey_run (k : Nibble) (b : Bool) : (s.setKey k b).run = s.run := rfl
@[simp] theorem State.setKey_fault (k : Nibble) (b : Bool) : (s.setKey k b).fault = s.fault := rfl
@[simp] theorem State.setKey_schedule (k : Nibble) (b : Bool) : (s.setKey k b).schedule = s.schedule := rfl

/-! `setTimers` -/

@[simp] theorem State.setTimers_mem (d t : Byte) : (s.setTimers d t).mem = s.mem := rfl
@[simp] theorem State.setTimers_v (d t : Byte) : (s.setTimers d t).v = s.v := rfl
@[simp] theorem State.setTimers_i (d t : Byte) : (s.setTimers d t).i = s.i := rfl
@[simp] theorem State.setTimers_pc (d t : Byte) : (s.setTimers d t).pc = s.pc := rfl
@[simp] theorem State.setTimers_stack (d t : Byte) : (s.setTimers d t).stack = s.stack := rfl
@[simp] theorem State.setTimers_sp (d t : Byte) : (s.setTimers d t).sp = s.sp := rfl
@[simp] theorem State.setTimers_disp (d t : Byte) : (s.setTimers d t).disp = s.disp := rfl
@[simp] theorem State.setTimers_key (d t : Byte) : (s.setTimers d t).key = s.key := rfl
@[simp] theorem State.setTimers_dt (d t : Byte) : (s.setTimers d t).dt = d := rfl
@[simp] theorem State.setTimers_st (d t : Byte) : (s.setTimers d t).st = t := rfl
@[simp] theorem State.setTimers_run (d t : Byte) : (s.setTimers d t).run = s.run := rfl
@[simp] theorem State.setTimers_fault (d t : Byte) : (s.setTimers d t).fault = s.fault := rfl
@[simp] theorem State.setTimers_schedule (d t : Byte) : (s.setTimers d t).schedule = s.schedule := rfl

/-! `setRun` -/

@[simp] theorem State.setRun_mem (r : RunState) : (s.setRun r).mem = s.mem := rfl
@[simp] theorem State.setRun_v (r : RunState) : (s.setRun r).v = s.v := rfl
@[simp] theorem State.setRun_i (r : RunState) : (s.setRun r).i = s.i := rfl
@[simp] theorem State.setRun_pc (r : RunState) : (s.setRun r).pc = s.pc := rfl
@[simp] theorem State.setRun_stack (r : RunState) : (s.setRun r).stack = s.stack := rfl
@[simp] theorem State.setRun_sp (r : RunState) : (s.setRun r).sp = s.sp := rfl
@[simp] theorem State.setRun_disp (r : RunState) : (s.setRun r).disp = s.disp := rfl
@[simp] theorem State.setRun_key (r : RunState) : (s.setRun r).key = s.key := rfl
@[simp] theorem State.setRun_dt (r : RunState) : (s.setRun r).dt = s.dt := rfl
@[simp] theorem State.setRun_st (r : RunState) : (s.setRun r).st = s.st := rfl
@[simp] theorem State.setRun_run (r : RunState) : (s.setRun r).run = r := rfl
@[simp] theorem State.setRun_fault (r : RunState) : (s.setRun r).fault = s.fault := rfl
@[simp] theorem State.setRun_schedule (r : RunState) : (s.setRun r).schedule = s.schedule := rfl

/-! `setSchedule` -/

@[simp] theorem State.setSchedule_mem (l : List Action) : (s.setSchedule l).mem = s.mem := rfl
@[simp] theorem State.setSchedule_v (l : List Action) : (s.setSchedule l).v = s.v := rfl
@[simp] theorem State.setSchedule_i (l : List Action) : (s.setSchedule l).i = s.i := rfl
@[simp] theorem State.setSchedule_pc (l : List Action) : (s.setSchedule l).pc = s.pc := rfl
@[simp] theorem State.setSchedule_stack (l : List Action) : (s.setSchedule l).stack = s.stack := rfl
@[simp] theorem State.setSchedule_sp (l : List Action) : (s.setSchedule l).sp = s.sp := rfl
@[simp] theorem State.setSchedule_disp (l : List Action) : (s.setSchedule l).disp = s.disp := rfl
@[simp] theorem State.setSchedule_key (l : List Action) : (s.setSchedule l).key = s.key := rfl
@[simp] theorem State.setSchedule_dt (l : List Action) : (s.setSchedule l).dt = s.dt := rfl
@[simp] theorem State.setSchedule_st (l : List Action) : (s.setSchedule l).st = s.st := rfl
@[simp] theorem State.setSchedule_run (l : List Action) : (s.setSchedule l).run = s.run := rfl
@[simp] theorem State.setSchedule_fault (l : List Action) : (s.setSchedule l).fault = s.fault := rfl
@[simp] theorem State.setSchedule_schedule (l : List Action) : (s.setSchedule l).schedule = l := rfl

/-! `raise` -/

@[simp] theorem State.raise_mem (c : Cause) (o : Option Word) (a : Option Nat) : (s.raise c o a).mem = s.mem := rfl
@[simp] theorem State.raise_v (c : Cause) (o : Option Word) (a : Option Nat) : (s.raise c o a).v = s.v := rfl
@[simp] theorem State.raise_i (c : Cause) (o : Option Word) (a : Option Nat) : (s.raise c o a).i = s.i := rfl
@[simp] theorem State.raise_pc (c : Cause) (o : Option Word) (a : Option Nat) : (s.raise c o a).pc = s.pc := rfl
@[simp] theorem State.raise_stack (c : Cause) (o : Option Word) (a : Option Nat) : (s.raise c o a).stack = s.stack := rfl
@[simp] theorem State.raise_sp (c : Cause) (o : Option Word) (a : Option Nat) : (s.raise c o a).sp = s.sp := rfl
@[simp] theorem State.raise_disp (c : Cause) (o : Option Word) (a : Option Nat) : (s.raise c o a).disp = s.disp := rfl
@[simp] theorem State.raise_key (c : Cause) (o : Option Word) (a : Option Nat) : (s.raise c o a).key = s.key := rfl
@[simp] theorem State.raise_dt (c : Cause) (o : Option Word) (a : Option Nat) : (s.raise c o a).dt = s.dt := rfl
@[simp] theorem State.raise_st (c : Cause) (o : Option Word) (a : Option Nat) : (s.raise c o a).st = s.st := rfl
@[simp] theorem State.raise_run (c : Cause) (o : Option Word) (a : Option Nat) : (s.raise c o a).run = s.run := rfl
@[simp] theorem State.raise_fault (c : Cause) (o : Option Word) (a : Option Nat) : (s.raise c o a).fault = some ⟨c, s.pc, o, a⟩ := rfl
@[simp] theorem State.raise_schedule (c : Cause) (o : Option Word) (a : Option Nat) : (s.raise c o a).schedule = s.schedule := rfl

/-! `tick` -/

@[simp] theorem State.tick_mem : (s.tick).mem = s.mem := rfl
@[simp] theorem State.tick_v : (s.tick).v = s.v := rfl
@[simp] theorem State.tick_i : (s.tick).i = s.i := rfl
@[simp] theorem State.tick_pc : (s.tick).pc = s.pc := rfl
@[simp] theorem State.tick_stack : (s.tick).stack = s.stack := rfl
@[simp] theorem State.tick_sp : (s.tick).sp = s.sp := rfl
@[simp] theorem State.tick_disp : (s.tick).disp = s.disp := rfl
@[simp] theorem State.tick_key : (s.tick).key = s.key := rfl
@[simp] theorem State.tick_dt : (s.tick).dt = countDown s.dt := rfl
@[simp] theorem State.tick_st : (s.tick).st = countDown s.st := rfl
@[simp] theorem State.tick_run : (s.tick).run = s.run := rfl
@[simp] theorem State.tick_fault : (s.tick).fault = s.fault := rfl
@[simp] theorem State.tick_schedule : (s.tick).schedule = s.schedule := rfl

/-! `togglePause` -/

@[simp] theorem State.togglePause_mem : (s.togglePause).mem = s.mem := rfl
@[simp] theorem State.togglePause_v : (s.togglePause).v = s.v := rfl
@[simp] theorem State.togglePause_i : (s.togglePause).i = s.i := rfl
@[simp] theorem State.togglePause_pc : (s.togglePause).pc = s.pc := rfl
@[simp] theorem State.togglePause_stack : (s.togglePause).stack = s.stack := rfl
@[simp] theorem State.togglePause_sp : (s.togglePause).sp = s.sp := rfl
@[simp] theorem State.togglePause_disp : (s.togglePause).disp = s.disp := rfl
@[simp] theorem State.togglePause_key : (s.togglePause).key = s.key := rfl
@[simp] theorem State.togglePause_dt : (s.togglePause).dt = s.dt := rfl
@[simp] theorem State.togglePause_st : (s.togglePause).st = s.st := rfl
@[simp] theorem State.togglePause_run : (s.togglePause).run = s.run.toggled := rfl
@[simp] theorem State.togglePause_fault : (s.togglePause).fault = s.fault := rfl
@[simp] theorem State.togglePause_schedule : (s.togglePause).schedule = s.schedule := rfl

/-! `quit` -/

@[simp] theorem State.quit_mem : (s.quit).mem = s.mem := rfl
@[simp] theorem State.quit_v : (s.quit).v = s.v := rfl
@[simp] theorem State.quit_i : (s.quit).i = s.i := rfl
@[simp] theorem State.quit_pc : (s.quit).pc = s.pc := rfl
@[simp] theorem State.quit_stack : (s.quit).stack = s.stack := rfl
@[simp] theorem State.quit_sp : (s.quit).sp = s.sp := rfl
@[simp] theorem State.quit_disp : (s.quit).disp = s.disp := rfl
@[simp] theorem State.quit_key : (s.quit).key = s.key := rfl
@[simp] theorem State.quit_dt : (s.quit).dt = s.dt := rfl
@[simp] theorem State.quit_st : (s.quit).st = s.st := rfl
@[simp] theorem State.quit_run : (s.quit).run = .quit := rfl
@[simp] theorem State.quit_fault : (s.quit).fault = s.fault := rfl
@[simp] theorem State.quit_schedule : (s.quit).schedule = s.schedule := rfl

/-! `placeWord` -/

@[simp] theorem State.placeWord_mem (w : Word) : (s.placeWord w).mem = s.mem.writeBytes s.pc.toNat (bytesOfWord w) := rfl
@[simp] theorem State.placeWord_v (w : Word) : (s.placeWord w).v = s.v := rfl
@[simp] theorem State.placeWord_i (w : Word) : (s.placeWord w).i = s.i := rfl
@[simp] theorem State.placeWord_pc (w : Word) : (s.placeWord w).pc = s.pc := rfl
@[simp] theorem State.placeWord_stack (w : Word) : (s.placeWord w).stack = s.stack := rfl
@[simp] theorem State.placeWord_sp (w : Word) : (s.placeWord w).sp = s.sp := rfl
@[simp] theorem State.placeWord_disp (w : Word) : (s.placeWord w).disp = s.disp := rfl
@[simp] theorem State.placeWord_key (w : Word) : (s.placeWord w).key = s.key := rfl
@[simp] theorem State.placeWord_dt (w : Word) : (s.placeWord w).dt = s.dt := rfl
@[simp] theorem State.placeWord_st (w : Word) : (s.placeWord w).st = s.st := rfl
@[simp] theorem State.placeWord_run (w : Word) : (s.placeWord w).run = .running := rfl
@[simp] theorem State.placeWord_fault (w : Word) : (s.placeWord w).fault = none := rfl
@[simp] theorem State.placeWord_schedule (w : Word) : (s.placeWord w).schedule = [] := rfl

/-! `skipIf` -/

@[simp] theorem State.skipIf_mem (c : Bool) : (s.skipIf c).mem = s.mem := by cases c <;> rfl
@[simp] theorem State.skipIf_v (c : Bool) : (s.skipIf c).v = s.v := by cases c <;> rfl
@[simp] theorem State.skipIf_i (c : Bool) : (s.skipIf c).i = s.i := by cases c <;> rfl
@[simp] theorem State.skipIf_pc (c : Bool) : (s.skipIf c).pc = if c then s.pc + 2#16 else s.pc := by
  cases c <;> rfl
@[simp] theorem State.skipIf_stack (c : Bool) : (s.skipIf c).stack = s.stack := by cases c <;> rfl
@[simp] theorem State.skipIf_sp (c : Bool) : (s.skipIf c).sp = s.sp := by cases c <;> rfl
@[simp] theorem State.skipIf_disp (c : Bool) : (s.skipIf c).disp = s.disp := by cases c <;> rfl
@[simp] theorem State.skipIf_key (c : Bool) : (s.skipIf c).key = s.key := by cases c <;> rfl
@[simp] theorem State.skipIf_dt (c : Bool) : (s.skipIf c).dt = s.dt := by cases c <;> rfl
@[simp] theorem State.skipIf_st (c : Bool) : (s.skipIf c).st = s.st := by cases c <;> rfl
@[simp] theorem State.skipIf_run (c : Bool) : (s.skipIf c).run = s.run := by cases c <;> rfl
@[simp] theorem State.skipIf_fault (c : Bool) : (s.skipIf c).fault = s.fault := by cases c <;> rfl
@[simp] theorem State.skipIf_schedule (c : Bool) : (s.skipIf c).schedule = s.schedule := by cases c <;> rfl

/-! `setResultFlag` -/

@[simp] theorem State.setResultFlag_mem (x : Nibble) (b : Byte) (c : Bool) : (s.setResultFlag x b c).mem = s.mem := rfl
@[simp] theorem State.setResultFlag_i (x : Nibble) (b : Byte) (c : Bool) : (s.setResultFlag x b c).i = s.i := rfl
@[simp] theorem State.setResultFlag_pc (x : Nibble) (b : Byte) (c : Bool) : (s.setResultFlag x b c).pc = s.pc := rfl
@[simp] theorem State.setResultFlag_stack (x : Nibble) (b : Byte) (c : Bool) : (s.setResultFlag x b c).stack = s.stack := rfl
@[simp] theorem State.setResultFlag_sp (x : Nibble) (b : Byte) (c : Bool) : (s.setResultFlag x b c).sp = s.sp := rfl
@[simp] theorem State.setResultFlag_disp (x : Nibble) (b : Byte) (c : Bool) : (s.setResultFlag x b c).disp = s.disp := rfl
@[simp] theorem State.setResultFlag_key (x : Nibble) (b : Byte) (c : Bool) : (s.setResultFlag x b c).key = s.key := rfl
@[simp] theorem State.setResultFlag_dt (x : Nibble) (b : Byte) (c : Bool) : (s.setResultFlag x b c).dt = s.dt := rfl
@[simp] theorem State.setResultFlag_st (x : Nibble) (b : Byte) (c : Bool) : (s.setResultFlag x b c).st = s.st := rfl
@[simp] theorem State.setResultFlag_run (x : Nibble) (b : Byte) (c : Bool) : (s.setResultFlag x b c).run = s.run := rfl
@[simp] theorem State.setResultFlag_fault (x : Nibble) (b : Byte) (c : Bool) : (s.setResultFlag x b c).fault = s.fault := rfl
@[simp] theorem State.setResultFlag_schedule (x : Nibble) (b : Byte) (c : Bool) : (s.setResultFlag x b c).schedule = s.schedule := rfl

/-! Reading a register after an update (10_state.md R14: no aliases) -/

theorem State.getV_setV (r q : Nibble) (b : Byte) : (s.setV r b).getV q = if q = r then b else s.getV q := by
  simp only [State.getV, State.setV, Vector.getElem_set, BitVec.toNat_inj, eq_comm]

@[simp] theorem State.getV_setV_same (r : Nibble) (b : Byte) : (s.setV r b).getV r = b := by simp [State.getV_setV]

theorem State.getV_setV_other {r q : Nibble} (b : Byte) (h : q ≠ r) : (s.setV r b).getV q = s.getV q := by
  simp [State.getV_setV, h]

/-- The flag wins over the result when the destination is VF (42_alu.md R66). -/
theorem State.getV_setResultFlag (x q : Nibble) (b : Byte) (c : Bool) :
    (s.setResultFlag x b c).getV q = if q = regVF then flagByte c else if q = x then b else s.getV q := by
  simp [State.setResultFlag, State.getV_setV]

theorem State.getKey_setKey (k q : Nibble) (b : Bool) : (s.setKey k b).getKey q = if q = k then b else s.getKey q := by
  simp only [State.getKey, State.setKey, Vector.getElem_set, BitVec.toNat_inj, eq_comm]

/-- Registers are read from the field `v` alone. -/
theorem State.getV_congr {s t : State} (h : t.v = s.v) (r : Nibble) : t.getV r = s.getV r := by
  simp only [State.getV, h]

@[simp] theorem State.getV_setI (w : Word) (q : Nibble) : (s.setI w).getV q = s.getV q := rfl
@[simp] theorem State.getV_setPc (w : Word) (q : Nibble) : (s.setPc w).getV q = s.getV q := rfl
@[simp] theorem State.getV_advance (q : Nibble) : (s.advance).getV q = s.getV q := rfl
@[simp] theorem State.getV_setDisp (d : Display) (q : Nibble) : (s.setDisp d).getV q = s.getV q := rfl
@[simp] theorem State.getV_setKey (k : Nibble) (b : Bool) (q : Nibble) : (s.setKey k b).getV q = s.getV q := rfl
@[simp] theorem State.getV_setTimers (d t : Byte) (q : Nibble) : (s.setTimers d t).getV q = s.getV q := rfl
@[simp] theorem State.getV_setRun (r : RunState) (q : Nibble) : (s.setRun r).getV q = s.getV q := rfl
@[simp] theorem State.getV_setSchedule (l : List Action) (q : Nibble) : (s.setSchedule l).getV q = s.getV q := rfl
@[simp] theorem State.getV_raise (c : Cause) (o : Option Word) (a : Option Nat) (q : Nibble) : (s.raise c o a).getV q = s.getV q := rfl
@[simp] theorem State.getV_tick (q : Nibble) : (s.tick).getV q = s.getV q := rfl
@[simp] theorem State.getV_togglePause (q : Nibble) : (s.togglePause).getV q = s.getV q := rfl
@[simp] theorem State.getV_quit (q : Nibble) : (s.quit).getV q = s.getV q := rfl
@[simp] theorem State.getV_placeWord (w : Word) (q : Nibble) : (s.placeWord w).getV q = s.getV q := rfl
@[simp] theorem State.getV_skipIf (c : Bool) (q : Nibble) : (s.skipIf c).getV q = s.getV q := by cases c <;> rfl

@[simp] theorem State.value_reg (r : Nibble) : s.value (.reg r) = s.getV r := rfl
@[simp] theorem State.value_imm (b : Byte) : s.value (.imm b) = b := rfl

/-- Two states with the same registers read the same from each. -/
theorem State.ext_getV {s t : State} (h : ∀ r, t.getV r = s.getV r) : t.v = s.v := by
  apply Vector.ext
  intro k hk
  have := h (BitVec.ofNat 4 k)
  simpa [State.getV, Nat.mod_eq_of_lt hk] using this

end Sys2Proof.Machine
end

