-- ==== Sys2Proof/Laws/Ops.lean ====
section
/-! SUPPORT. The call stack and the pixels of the display: one lemma per operation that says all it can do. -/

namespace Sys2Proof.Machine

/-! ## The call stack (10_state.md R20, R21) -/

/-- A push on a stack that is not full. -/
theorem State.push?_some {s : State} (w : Word) (h : s.sp.val < 12) :
    s.push? w = some { s with stack := s.stack.set s.sp.val w h, sp := ⟨s.sp.val + 1, by omega⟩ } := dif_pos h

/-- A push on a full stack. -/
theorem State.push?_none {s : State} (w : Word) (h : s.sp.val = 12) : s.push? w = none :=
  dif_neg (by omega)

/-- All a push can do. -/
theorem State.push?_cases (s : State) (w : Word) :
    (s.sp.val = 12 ∧ s.push? w = none) ∨
      ∃ h : s.sp.val < 12,
        s.push? w = some { s with stack := s.stack.set s.sp.val w h, sp := ⟨s.sp.val + 1, by omega⟩ } := by
  by_cases h : s.sp.val < 12
  · exact .inr ⟨h, State.push?_some w h⟩
  · have h12 : s.sp.val = 12 := by omega
    exact .inl ⟨h12, State.push?_none w h12⟩

/-- A pop from a stack that is not empty. -/
theorem State.pop?_some {s : State} (h : 0 < s.sp.val) :
    s.pop? = some (s.stack[s.sp.val - 1]'(by omega), { s with sp := ⟨s.sp.val - 1, by omega⟩ }) := dif_pos h

/-- A pop from an empty stack. -/
theorem State.pop?_none {s : State} (h : s.sp.val = 0) : s.pop? = none := dif_neg (by omega)

/-- All a pop can do. -/
theorem State.pop?_cases (s : State) :
    (s.sp.val = 0 ∧ s.pop? = none) ∨
      ∃ h : 0 < s.sp.val,
        s.pop? = some (s.stack[s.sp.val - 1]'(by omega), { s with sp := ⟨s.sp.val - 1, by omega⟩ }) := by
  by_cases h : 0 < s.sp.val
  · exact .inr ⟨h, State.pop?_some h⟩
  · have h0 : s.sp.val = 0 := by omega
    exact .inl ⟨h0, State.pop?_none h0⟩

/-! ## The display (10_state.md R23) -/

@[simp] theorem Display.pixel_clear (y x : Nat) : Display.clear.pixel y x = false := by
  unfold Display.pixel
  split <;> simp [Display.clear]

theorem Display.pixel_setPixel (d : Display) (y x r c : Nat) (b : Bool) :
    (d.setPixel y x b).pixel r c = if r = y ∧ c = x ∧ y < 32 ∧ x < 64 then b else d.pixel r c := by
  unfold Display.setPixel
  by_cases h : y < 32 ∧ x < 64
  · rw [dif_pos h]
    unfold Display.pixel
    by_cases hr : r < 32 ∧ c < 64
    · rw [dif_pos hr, dif_pos hr]
      by_cases hy : y = r
      · subst hy
        by_cases hx : x = c
        · subst hx; simp [h]
        · simp [hx, Ne.symm hx]
      · simp [hy, Ne.symm hy]
    · rw [dif_neg hr, dif_neg hr]
      have : ¬ (r = y ∧ c = x ∧ y < 32 ∧ x < 64) := by
        rintro ⟨rfl, rfl, h'⟩; exact hr h'
      rw [if_neg this]
  · rw [dif_neg h]
    have : ¬ (r = y ∧ c = x ∧ y < 32 ∧ x < 64) := fun ⟨_, _, h'⟩ => h h'
    rw [if_neg this]

/-- Displays with the same pixels are the same. -/
theorem Display.ext_pixel {d e : Display} (h : ∀ y x, y < 32 → x < 64 → d.pixel y x = e.pixel y x) : d = e := by
  apply Vector.ext
  intro y hy
  apply Vector.ext
  intro x hx
  have := h y x hy hx
  simpa [Display.pixel, hy, hx] using this

end Sys2Proof.Machine
end

