-- ==== Sys2Proof/Laws/Screen.lean ====
section
/-! SUPPORT. The sprite rasterizer (43_display.md R77 to R82): each loop's whole effect, pixel by pixel. -/

namespace Sys2Proof.Machine

theorem decide_of_equiv {p q : Prop} [Decidable p] [Decidable q] (h : p ↔ q) : decide p = decide q :=
  decide_eq_decide.2 h

/-- The pixels of a row's remaining bits: bit 7 - (q - x0) on column q. -/
theorem drawBits_pixel (sprite : Byte) {row x0 k : Nat} (c : Canvas) (hrow : row < 32) (hk : k ≤ 8) (r q : Nat) :
    (drawBits sprite row x0 k c).disp.pixel r q =
      xor (c.disp.pixel r q)
        (decide (r = row ∧ x0 + (8 - k) ≤ q ∧ q < x0 + 8 ∧ q < 64) && sprite.getLsbD (7 - (q - x0))) := by
  induction k generalizing c with
  | zero =>
    have : ¬ (r = row ∧ x0 + (8 - 0) ≤ q ∧ q < x0 + 8 ∧ q < 64) := by omega
    rw [drawBits, decide_eq_false this]; simp
  | succ j ih =>
    unfold drawBits
    by_cases hcol : 64 ≤ x0 + (7 - j)
    · have : ¬ (r = row ∧ x0 + (8 - (j + 1)) ≤ q ∧ q < x0 + 8 ∧ q < 64) := by omega
      rw [if_pos (show Config.dispW ≤ _ from hcol)]
      rw [decide_eq_false this]; simp
    · rw [if_neg (show ¬ Config.dispW ≤ _ from hcol), ih _ (by omega)]
      simp only [drawPixel, Display.pixel_setPixel]
      by_cases hq : r = row ∧ q = x0 + (7 - j)
      · obtain ⟨rfl, rfl⟩ := hq
        have h1 : ¬ (r = r ∧ x0 + (8 - j) ≤ x0 + (7 - j) ∧ x0 + (7 - j) < x0 + 8 ∧ x0 + (7 - j) < 64) := by omega
        have h2 : r = r ∧ x0 + (8 - (j + 1)) ≤ x0 + (7 - j) ∧ x0 + (7 - j) < x0 + 8 ∧ x0 + (7 - j) < 64 := by omega
        have h3 : 7 - (x0 + (7 - j) - x0) = j := by omega
        rw [decide_eq_false h1, decide_eq_true h2, h3, if_pos ⟨rfl, rfl, hrow, by omega⟩]
        simp
      · have h1 : (r = row ∧ x0 + (8 - j) ≤ q ∧ q < x0 + 8 ∧ q < 64) ↔
            (r = row ∧ x0 + (8 - (j + 1)) ≤ q ∧ q < x0 + 8 ∧ q < 64) := by omega
        have h1' := decide_of_equiv h1
        rw [h1', if_neg (by tauto)]

/-- The collision of a row's remaining bits: sticky, and set by a set bit over a pixel that is on (R81). -/
theorem drawBits_hit (sprite : Byte) {row x0 k : Nat} (c : Canvas) (hk : k ≤ 8) :
    (drawBits sprite row x0 k c).hit = true ↔
      c.hit = true ∨ ∃ q, x0 + (8 - k) ≤ q ∧ q < x0 + 8 ∧ q < 64 ∧ sprite.getLsbD (7 - (q - x0)) = true ∧
        c.disp.pixel row q = true := by
  induction k generalizing c with
  | zero =>
    simp only [drawBits]
    constructor
    · exact .inl
    · rintro (h | ⟨q, h1, h2, _⟩)
      · exact h
      · omega
  | succ j ih =>
    unfold drawBits
    by_cases hcol : 64 ≤ x0 + (7 - j)
    · rw [if_pos (show Config.dispW ≤ _ from hcol)]
      constructor
      · exact .inl
      · rintro (h | ⟨q, h1, h2, h3, _⟩)
        · exact h
        · omega
    · rw [if_neg (show ¬ Config.dispW ≤ _ from hcol), ih _ (by omega)]
      have h3 : 7 - (x0 + (7 - j) - x0) = j := by omega
      have old : ∀ q, x0 + (8 - j) ≤ q →
          (drawPixel c row (x0 + (7 - j)) (sprite.getLsbD j)).disp.pixel row q = c.disp.pixel row q := by
        intro q hq
        simp only [drawPixel, Display.pixel_setPixel]
        rw [if_neg (by omega)]
      constructor
      · rintro (h | ⟨q, h1, h2, h4, h5, h6⟩)
        · simp only [drawPixel, Bool.or_eq_true, Bool.and_eq_true] at h
          rcases h with h | ⟨hb, hp⟩
          · exact .inl h
          · exact .inr ⟨x0 + (7 - j), by omega, by omega, by omega, by rw [h3]; exact hb, hp⟩
        · exact .inr ⟨q, by omega, h2, h4, h5, by rw [← old q h1]; exact h6⟩
      · rintro (h | ⟨q, h1, h2, h4, h5, h6⟩)
        · exact .inl (by simp [drawPixel, h])
        · by_cases hq : q = x0 + (7 - j)
          · subst hq
            rw [h3] at h5
            exact .inl (by simp [drawPixel, h5, h6])
          · exact .inr ⟨q, by omega, h2, h4, h5, by rw [old q (by omega)]; exact h6⟩

/-- A draw whose rows are all readable: it ends with every pixel XORed with its sprite bit, and the collision flag says
whether a set sprite bit met a pixel that was on (R77, R79, R81). -/
theorem drawRows_ok (m : Memory) (base x0 y0 : Nat) {k i : Nat} (c : Canvas)
    (h : ∀ j, i ≤ j → j < i + k → y0 + j < 32 → base + j < 4096) :
    ∃ c', drawRows m base x0 y0 k i c = .ok c' ∧
      (∀ r q, r < 32 → q < 64 → c'.disp.pixel r q = xor (c.disp.pixel r q)
        (decide (y0 + i ≤ r ∧ r < y0 + i + k ∧ x0 ≤ q ∧ q < x0 + 8) &&
          (m.read (base + (r - y0))).getLsbD (7 - (q - x0)))) ∧
      (c'.hit = true ↔ c.hit = true ∨ ∃ r q, r < 32 ∧ q < 64 ∧
        (y0 + i ≤ r ∧ r < y0 + i + k ∧ x0 ≤ q ∧ q < x0 + 8) ∧
        (m.read (base + (r - y0))).getLsbD (7 - (q - x0)) = true ∧ c.disp.pixel r q = true) := by
  induction k generalizing i c with
  | zero =>
    refine ⟨c, rfl, ?_, ?_⟩
    · intro r q _ _
      have : ¬ (y0 + i ≤ r ∧ r < y0 + i + 0 ∧ x0 ≤ q ∧ q < x0 + 8) := by omega
      rw [decide_eq_false this]; simp
    · constructor
      · exact .inl
      · rintro (h | ⟨r, q, _, _, h1, _⟩)
        · exact h
        · omega
  | succ k ih =>
    unfold drawRows
    by_cases hrow : 32 ≤ y0 + i
    · rw [if_pos (show Config.dispH ≤ _ from hrow)]
      refine ⟨c, rfl, ?_, ?_⟩
      · intro r q hr _
        have : ¬ (y0 + i ≤ r ∧ r < y0 + i + (k + 1) ∧ x0 ≤ q ∧ q < x0 + 8) := by omega
        rw [decide_eq_false this]; simp
      · constructor
        · exact .inl
        · rintro (h | ⟨r, q, _, _, h1, _⟩)
          · exact h
          · omega
    · have hb : base + i < 4096 := h i (by omega) (by omega) (by omega)
      rw [if_neg (show ¬ Config.dispH ≤ _ from hrow), Memory.read8_ok hb]
      obtain ⟨c', he, hpix, hhit⟩ := ih (i := i + 1) (drawBits (m.read (base + i)) (y0 + i) x0 8 c)
        (fun j h1 h2 h3 => h j (by omega) (by omega) h3)
      have hrow' : y0 + i < 32 := by omega
      refine ⟨c', he, ?_, ?_⟩
      · intro r q hr hq
        rw [hpix r q hr hq, drawBits_pixel _ _ hrow' (Nat.le_refl 8)]
        by_cases e : r = y0 + i
        · subst e
          have h1 : ¬ (y0 + (i + 1) ≤ y0 + i ∧ y0 + i < y0 + (i + 1) + k ∧ x0 ≤ q ∧ q < x0 + 8) := by omega
          have h2 : (y0 + i = y0 + i ∧ x0 + (8 - 8) ≤ q ∧ q < x0 + 8 ∧ q < 64) ↔
              (y0 + i ≤ y0 + i ∧ y0 + i < y0 + i + (k + 1) ∧ x0 ≤ q ∧ q < x0 + 8) := by omega
          have h3 : y0 + i - y0 = i := by omega
          have h2' := decide_of_equiv h2
          rw [decide_eq_false h1, h2', h3]
          simp
        · have h1 : ¬ (r = y0 + i ∧ x0 + (8 - 8) ≤ q ∧ q < x0 + 8 ∧ q < 64) := by omega
          have h2 : (y0 + (i + 1) ≤ r ∧ r < y0 + (i + 1) + k ∧ x0 ≤ q ∧ q < x0 + 8) ↔
              (y0 + i ≤ r ∧ r < y0 + i + (k + 1) ∧ x0 ≤ q ∧ q < x0 + 8) := by omega
          have h2' := decide_of_equiv h2
          rw [decide_eq_false h1, h2']
          simp
      · have other : ∀ r q, r ≠ y0 + i →
            (drawBits (m.read (base + i)) (y0 + i) x0 8 c).disp.pixel r q = c.disp.pixel r q := by
          intro r q hne
          rw [drawBits_pixel _ _ hrow' (Nat.le_refl 8)]
          simp [hne]
        rw [hhit, drawBits_hit _ _ (Nat.le_refl 8)]
        have h3 : y0 + i - y0 = i := by omega
        constructor
        · rintro ((h1 | ⟨q, h1, h2, h4, h5, h6⟩) | ⟨r, q, hr, hq, h1, h5, h6⟩)
          · exact .inl h1
          · exact .inr ⟨y0 + i, q, hrow', h4, by omega, by rw [h3]; exact h5, h6⟩
          · rw [other r q (by omega)] at h6
            exact .inr ⟨r, q, hr, hq, by omega, h5, h6⟩
        · rintro (h1 | ⟨r, q, hr, hq, h1, h5, h6⟩)
          · exact .inl (.inl h1)
          · by_cases e : r = y0 + i
            · subst e
              rw [h3] at h5
              exact .inl (.inr ⟨q, by omega, by omega, hq, h5, h6⟩)
            · exact .inr ⟨r, q, hr, hq, by omega, h5, by rw [other r q e]; exact h6⟩

/-- A draw one of whose rows is not readable ends with the address of the first such row (R80). -/
theorem drawRows_error (m : Memory) (base x0 y0 : Nat) {k i : Nat} (c : Canvas) {j : Nat} (h1 : i ≤ j) (h2 : j < i + k)
    (h3 : y0 + j < 32) (h4 : 4096 ≤ base + j) (h5 : ∀ j', i ≤ j' → j' < j → base + j' < 4096) :
    drawRows m base x0 y0 k i c = .error (base + j) := by
  induction k generalizing i c with
  | zero => omega
  | succ k ih =>
    unfold drawRows
    rw [if_neg (show ¬ Config.dispH ≤ y0 + i from (show ¬ 32 ≤ y0 + i by omega))]
    by_cases e : i = j
    · subst e; rw [Memory.read8_error h4]
    · rw [Memory.read8_ok (h5 i (Nat.le_refl i) (by omega))]
      exact ih _ (by omega) (by omega) (fun j' a b => h5 j' (by omega) b)

/-- All a draw can do: it succeeds, or it ends with the address of the first unreadable row it draws. -/
theorem drawRows_cases (m : Memory) (base x0 y0 k : Nat) (c : Canvas) :
    (∀ j, j < k → y0 + j < 32 → base + j < 4096) ∨
      ∃ j, j < k ∧ y0 + j < 32 ∧ 4096 ≤ base + j ∧ (∀ j', j' < j → base + j' < 4096) ∧
        drawRows m base x0 y0 k 0 c = .error (base + j) := by
  by_cases h : ∀ j, j < k → y0 + j < 32 → base + j < 4096
  · exact .inl h
  · right
    push Not at h
    obtain ⟨j, hk, hy, hb⟩ := h
    by_cases h0 : base < 4096
    · refine ⟨4096 - base, by omega, by omega, by omega, fun j' _ => by omega, ?_⟩
      exact drawRows_error m base x0 y0 c (Nat.zero_le _) (by omega) (by omega) (by omega) (fun j' _ _ => by omega)
    · refine ⟨0, by omega, by omega, by omega, fun j' _ => by omega, ?_⟩
      exact drawRows_error m base x0 y0 c (Nat.le_refl 0) (by omega) (by omega) (by omega) (fun j' _ _ => by omega)

end Sys2Proof.Machine
end

