-- ==== Sys2Proof/Laws/Exec.lean ====
section
/-! SUPPORT. All that the meanings with an exception can do; every other meaning is one `.next` by definition. -/

namespace Sys2Proof.Machine

/-- RET on an empty stack (R55). -/
theorem execRet_empty {s : State} (h : s.sp.val = 0) :
    execRet s = .next (s.raise .stackUnderflow (some (encode .ret)) none) := by
  unfold execRet
  rw [State.pop?_none (by simpa using h)]

/-- RET on a stack that is not empty (R55). -/
theorem execRet_pop {s : State} (h : 0 < s.sp.val) :
    execRet s = .next { s with pc := s.stack[s.sp.val - 1]'(by omega), sp := ⟨s.sp.val - 1, by omega⟩ } := by
  unfold execRet
  rw [State.pop?_some (s := s.advance) (by simpa using h)]
  rfl

/-- CALL on a full stack (R57). -/
theorem execCall_full {s : State} (nnn : Addr12) (h : s.sp.val = 12) :
    execCall nnn s = .next (s.raise .stackOverflow (some (encode (.call nnn))) none) := by
  unfold execCall
  rw [State.push?_none _ (by simpa using h)]

/-- CALL on a stack that is not full (R57). -/
theorem execCall_push {s : State} (nnn : Addr12) (h : s.sp.val < 12) :
    execCall nnn s = .next { s with
      stack := s.stack.set s.sp.val (s.pc + 2#16) h, sp := ⟨s.sp.val + 1, by omega⟩, pc := zext16 nnn } := by
  unfold execCall
  rw [State.push?_some (s := s.advance) _ (by simpa using h)]
  rfl

/-- DRW when every row it draws is readable (R77 to R82): the display, and VF last. -/
theorem execDrw_ok {s : State} {x y n : Nibble} (h : s.spriteReadable y n) :
    ∃ d hit, execDrw x y n s = .next ((s.advance.setDisp d).setV regVF (flagByte hit)) ∧
      (∀ r q, r < 32 → q < 64 → d.pixel r q = xor (s.disp.pixel r q) (s.drawnBit x y n r q)) ∧
      (hit = true ↔ ∃ r q, r < 32 ∧ q < 64 ∧ s.drawnBit x y n r q = true ∧ s.disp.pixel r q = true) := by
  obtain ⟨c, he, hpix, hhit⟩ := drawRows_ok s.mem s.i.toNat (s.startX x) (s.startY y) (k := n.toNat) (i := 0)
    ⟨s.disp, false⟩ (fun j _ h2 h3 => Nat.lt_succ_of_le (h j (by omega) h3))
  refine ⟨c.disp, c.hit, ?_, ?_, ?_⟩
  · unfold execDrw
    unfold State.startX State.startY at he
    rw [he]
  · intro r q hr hq
    simpa [State.drawnBit, spriteBit] using hpix r q hr hq
  · rw [hhit]
    simp [State.drawnBit, spriteBit, and_assoc]

/-- DRW when the first unreadable row it draws is row j (R80). -/
theorem execDrw_error {s : State} {x y n : Nibble} {j : Nat} (h1 : j < n.toNat) (h2 : s.startY y + j < 32)
    (h3 : 4096 ≤ s.i.toNat + j) (h4 : ∀ j', j' < j → s.i.toNat + j' < 4096) :
    execDrw x y n s = .next (s.raise (.addressOutOfRange .sprite) (some (encode (.drw x y n))) (some (s.i.toNat + j))) := by
  have he := drawRows_error s.mem s.i.toNat (s.startX x) (s.startY y) (k := n.toNat) (i := 0) ⟨s.disp, false⟩
    (Nat.zero_le j) (by omega) h2 h3 (fun j' _ h => h4 j' h)
  unfold execDrw
  unfold State.startX State.startY at he
  rw [he]

/-- Every row readable, or a first row that is not. -/
theorem spriteReadable_or (s : State) (y n : Nibble) :
    s.spriteReadable y n ∨ ∃ j, j < n.toNat ∧ s.startY y + j < 32 ∧ 4096 ≤ s.i.toNat + j ∧
      ∀ j', j' < j → s.i.toNat + j' < 4096 := by
  rcases drawRows_cases s.mem s.i.toNat 0 (s.startY y) n.toNat ⟨s.disp, false⟩ with h | ⟨j, h1, h2, h3, h4, _⟩
  · exact .inl fun i hi hy => Nat.le_of_lt_succ (h i hi hy)
  · exact .inr ⟨j, h1, h2, h3, h4⟩

/-! ## What an instruction can do, once for all -/

/-- The four skips (R58 to R61). -/
def isSkip : Instr → Bool
  | .seVxNn _ _ | .sneVxNn _ _ | .seVxVy _ _ | .sneVxVy _ _ => true
  | _ => false

/-- The instructions that write one register of V, or one and then VF, and nothing else but PC (10_state.md R16). -/
def isAlu : Instr → Bool
  | .ldVxNn _ _ | .addVxNn _ _ | .ldVxVy _ _ | .orVxVy _ _ | .andVxVy _ _ | .xorVxVy _ _
  | .addVxVy _ _ | .subVxVy _ _ | .subnVxVy _ _ | .shrVx _ _ | .shlVx _ _ => true
  | _ => false

/-- The effects of the instructions on a state, by their shapes: `Effect s i t` says that `i` may take `s` to `t`. -/
inductive Effect (s : State) : Instr → State → Prop where
  | noOp {i : Instr} (h : i.implemented = false) : Effect s i s.advance
  | clear : Effect s .cls (s.advance.setDisp Display.clear)
  | jump (nnn : Addr12) : Effect s (.jp nnn) (s.advance.setPc (zext16 nnn))
  | skip {i : Instr} (h : isSkip i = true) (c : Bool) : Effect s i (s.advance.skipIf c)
  | index (nnn : Addr12) : Effect s (.ldINnn nnn) (s.advance.setI (zext16 nnn))
  | plain {i : Instr} (h : isAlu i = true) {x : Nibble} (hw : writesV i = [x]) (b : Byte) :
      Effect s i (s.advance.setV x b)
  | flagged {i : Instr} (h : isAlu i = true) {x : Nibble} (hw : writesV i = [x, regVF]) (b : Byte) (f : Bool) :
      Effect s i (s.advance.setResultFlag x b f)
  | pop (h : 0 < s.sp.val) :
      Effect s .ret { s with pc := s.stack[s.sp.val - 1]'(by omega), sp := ⟨s.sp.val - 1, by omega⟩ }
  | push (nnn : Addr12) (h : s.sp.val < 12) :
      Effect s (.call nnn) { s with
        stack := s.stack.set s.sp.val (s.pc + 2#16) h, sp := ⟨s.sp.val + 1, by omega⟩, pc := zext16 nnn }
  | draw (x y n : Nibble) (h : s.spriteReadable y n) (d : Display) (hit : Bool) :
      Effect s (.drw x y n) ((s.advance.setDisp d).setV regVF (flagByte hit))
  | underflow (h : s.sp.val = 0) : Effect s .ret (s.raise .stackUnderflow (some (encode .ret)) none)
  | overflow (nnn : Addr12) (h : s.sp.val = 12) :
      Effect s (.call nnn) (s.raise .stackOverflow (some (encode (.call nnn))) none)
  | outOfRange (x y n : Nibble) {j : Nat} (h1 : j < n.toNat) (h2 : s.startY y + j < 32) (h3 : 4096 ≤ s.i.toNat + j) :
      Effect s (.drw x y n)
        (s.raise (.addressOutOfRange .sprite) (some (encode (.drw x y n))) (some (s.i.toNat + j)))

/-- Whatever an instruction answers is one of these effects. -/
theorem exec_effect {i : Instr} {s t : State} (h : exec i s = .next t) : Effect s i t := by
  cases i
  case cls => cases h; exact .clear
  case jp nnn => cases h; exact .jump nnn
  case ldINnn nnn => cases h; exact .index nnn
  case ret =>
    rcases Nat.eq_zero_or_pos s.sp.val with h0 | h0
    · cases (execRet_empty h0).symm.trans h; exact .underflow h0
    · cases (execRet_pop h0).symm.trans h; exact .pop h0
  case call nnn =>
    by_cases h0 : s.sp.val = 12
    · cases (execCall_full nnn h0).symm.trans h; exact .overflow nnn h0
    · have h1 : s.sp.val < 12 := by omega
      cases (execCall_push nnn h1).symm.trans h; exact .push nnn h1
  case drw x y n =>
    rcases spriteReadable_or s y n with h0 | ⟨j, h1, h2, h3, h4⟩
    · obtain ⟨d, hit, he, _⟩ := execDrw_ok (x := x) h0
      cases he.symm.trans h; exact .draw x y n h0 d hit
    · cases (execDrw_error (x := x) h1 h2 h3 h4).symm.trans h; exact .outOfRange x y n h1 h2 h3
  all_goals
    cases h
    first
      | exact .noOp rfl
      | exact .skip rfl _
      | exact .plain rfl rfl _
      | exact .flagged rfl rfl _ _

/-- An instruction leaves the fault field alone, or raises: then nothing else changes (60_exceptions.md R94). -/
theorem Effect.fault {i : Instr} {s t : State} (h : Effect s i t) :
    t.fault = s.fault ∨ ∃ c o a, t = s.raise c o a := by
  cases h <;> first | exact .inl rfl | exact .inl (State.skipIf_fault _ _) | exact .inr ⟨_, _, _, rfl⟩

end Sys2Proof.Machine
end

