-- ==== Sys2Proof/Laws/PerInstr.lean ====
section
/-! SUPPORT. Statements made per instruction. MatchesRow: the encoding of an instruction is selected by the row of
spec/opcode_table.json it stands for, whatever its operands. -/

namespace Sys2Proof.Laws.MatchesRow

/-- The row's mask and its match in spec/opcode_table.json. -/
def row : Instr → Word × Word
  | .cls => (0xFFFF#16, 0x00E0#16)
  | .ret => (0xFFFF#16, 0x00EE#16)
  | .jp _ => (0xF000#16, 0x1000#16)
  | .call _ => (0xF000#16, 0x2000#16)
  | .seVxNn _ _ => (0xF000#16, 0x3000#16)
  | .sneVxNn _ _ => (0xF000#16, 0x4000#16)
  | .seVxVy _ _ => (0xF00F#16, 0x5000#16)
  | .ldVxNn _ _ => (0xF000#16, 0x6000#16)
  | .addVxNn _ _ => (0xF000#16, 0x7000#16)
  | .ldVxVy _ _ => (0xF00F#16, 0x8000#16)
  | .orVxVy _ _ => (0xF00F#16, 0x8001#16)
  | .andVxVy _ _ => (0xF00F#16, 0x8002#16)
  | .xorVxVy _ _ => (0xF00F#16, 0x8003#16)
  | .addVxVy _ _ => (0xF00F#16, 0x8004#16)
  | .subVxVy _ _ => (0xF00F#16, 0x8005#16)
  | .shrVx _ _ => (0xF00F#16, 0x8006#16)
  | .subnVxVy _ _ => (0xF00F#16, 0x8007#16)
  | .shlVx _ _ => (0xF00F#16, 0x800E#16)
  | .sneVxVy _ _ => (0xF00F#16, 0x9000#16)
  | .ldINnn _ => (0xF000#16, 0xA000#16)
  | .drw _ _ _ => (0xF000#16, 0xD000#16)
  | .nop0nnn _ => (0xF000#16, 0x0000#16)
  | .nop5xyn _ _ _ => (0xF000#16, 0x5000#16)
  | .nop8xy8 _ _ => (0xF00F#16, 0x8008#16)
  | .nop8xy9 _ _ => (0xF00F#16, 0x8009#16)
  | .nop8xya _ _ => (0xF00F#16, 0x800A#16)
  | .nop8xyb _ _ => (0xF00F#16, 0x800B#16)
  | .nop8xyc _ _ => (0xF00F#16, 0x800C#16)
  | .nop8xyd _ _ => (0xF00F#16, 0x800D#16)
  | .nop8xyf _ _ => (0xF00F#16, 0x800F#16)
  | .nop9xyn _ _ _ => (0xF000#16, 0x9000#16)
  | .nopBnnn _ => (0xF000#16, 0xB000#16)
  | .nopCxnn _ _ => (0xF000#16, 0xC000#16)
  | .nopExnn _ _ => (0xF000#16, 0xE000#16)
  | .nopFxnn _ _ => (0xF000#16, 0xF000#16)

/-- `op AND mask = match` for the instruction's word (30_encoding.md R50). -/
def Statement (i : Instr) : Prop := encode i &&& (row i).1 = (row i).2

/-- A word of layout XY or XYN under mask F00F. -/
theorem xyn (c x y n : Nibble) : wordXYN c x y n &&& 0xF00F#16 = wordXYN c 0#4 0#4 n :=
  (selects_F00F _ c n).2 ⟨(fields_wordXYN c x y n).1, (fields_wordXYN c x y n).2.2.2⟩

/-- A word of any layout under mask F000. -/
theorem byClass {w : Word} {c : Nibble} (h : (fields w).opClass = c) : w &&& 0xF000#16 = wordXYN c 0#4 0#4 0#4 :=
  (selects_F000 w c).2 h

theorem cls : Statement (.cls) := by unfold Statement; decide

theorem ret : Statement (.ret) := by unfold Statement; decide

theorem jp (nnn : Addr12) : Statement (.jp nnn) := byClass (fields_wordNNN 0x1#4 nnn).1

theorem call (nnn : Addr12) : Statement (.call nnn) := byClass (fields_wordNNN 0x2#4 nnn).1

theorem seVxNn (x : Nibble) (nn : Byte) : Statement (.seVxNn x nn) := byClass (fields_wordXNN 0x3#4 x nn).1

theorem sneVxNn (x : Nibble) (nn : Byte) : Statement (.sneVxNn x nn) := byClass (fields_wordXNN 0x4#4 x nn).1

theorem seVxVy (x : Nibble) (y : Nibble) : Statement (.seVxVy x y) := xyn 0x5#4 x y 0x0#4

theorem ldVxNn (x : Nibble) (nn : Byte) : Statement (.ldVxNn x nn) := byClass (fields_wordXNN 0x6#4 x nn).1

theorem addVxNn (x : Nibble) (nn : Byte) : Statement (.addVxNn x nn) := byClass (fields_wordXNN 0x7#4 x nn).1

theorem ldVxVy (x : Nibble) (y : Nibble) : Statement (.ldVxVy x y) := xyn 0x8#4 x y 0x0#4

theorem orVxVy (x : Nibble) (y : Nibble) : Statement (.orVxVy x y) := xyn 0x8#4 x y 0x1#4

theorem andVxVy (x : Nibble) (y : Nibble) : Statement (.andVxVy x y) := xyn 0x8#4 x y 0x2#4

theorem xorVxVy (x : Nibble) (y : Nibble) : Statement (.xorVxVy x y) := xyn 0x8#4 x y 0x3#4

theorem addVxVy (x : Nibble) (y : Nibble) : Statement (.addVxVy x y) := xyn 0x8#4 x y 0x4#4

theorem subVxVy (x : Nibble) (y : Nibble) : Statement (.subVxVy x y) := xyn 0x8#4 x y 0x5#4

theorem shrVx (x : Nibble) (y : Nibble) : Statement (.shrVx x y) := xyn 0x8#4 x y 0x6#4

theorem subnVxVy (x : Nibble) (y : Nibble) : Statement (.subnVxVy x y) := xyn 0x8#4 x y 0x7#4

theorem shlVx (x : Nibble) (y : Nibble) : Statement (.shlVx x y) := xyn 0x8#4 x y 0xE#4

theorem sneVxVy (x : Nibble) (y : Nibble) : Statement (.sneVxVy x y) := xyn 0x9#4 x y 0x0#4

theorem ldINnn (nnn : Addr12) : Statement (.ldINnn nnn) := byClass (fields_wordNNN 0xA#4 nnn).1

theorem drw (x : Nibble) (y : Nibble) (n : Nibble) : Statement (.drw x y n) := byClass (fields_wordXYN 0xD#4 x y n).1

theorem nop0nnn (nnn : Addr12) : Statement (.nop0nnn nnn) := byClass (fields_wordNNN 0x0#4 nnn).1

theorem nop5xyn (x : Nibble) (y : Nibble) (n : Nibble) : Statement (.nop5xyn x y n) := byClass (fields_wordXYN 0x5#4 x y n).1

theorem nop8xy8 (x : Nibble) (y : Nibble) : Statement (.nop8xy8 x y) := xyn 0x8#4 x y 0x8#4

theorem nop8xy9 (x : Nibble) (y : Nibble) : Statement (.nop8xy9 x y) := xyn 0x8#4 x y 0x9#4

theorem nop8xya (x : Nibble) (y : Nibble) : Statement (.nop8xya x y) := xyn 0x8#4 x y 0xA#4

theorem nop8xyb (x : Nibble) (y : Nibble) : Statement (.nop8xyb x y) := xyn 0x8#4 x y 0xB#4

theorem nop8xyc (x : Nibble) (y : Nibble) : Statement (.nop8xyc x y) := xyn 0x8#4 x y 0xC#4

theorem nop8xyd (x : Nibble) (y : Nibble) : Statement (.nop8xyd x y) := xyn 0x8#4 x y 0xD#4

theorem nop8xyf (x : Nibble) (y : Nibble) : Statement (.nop8xyf x y) := xyn 0x8#4 x y 0xF#4

theorem nop9xyn (x : Nibble) (y : Nibble) (n : Nibble) : Statement (.nop9xyn x y n) := byClass (fields_wordXYN 0x9#4 x y n).1

theorem nopBnnn (nnn : Addr12) : Statement (.nopBnnn nnn) := byClass (fields_wordNNN 0xB#4 nnn).1

theorem nopCxnn (x : Nibble) (nn : Byte) : Statement (.nopCxnn x nn) := byClass (fields_wordXNN 0xC#4 x nn).1

theorem nopExnn (x : Nibble) (nn : Byte) : Statement (.nopExnn x nn) := byClass (fields_wordXNN 0xE#4 x nn).1

theorem nopFxnn (x : Nibble) (nn : Byte) : Statement (.nopFxnn x nn) := byClass (fields_wordXNN 0xF#4 x nn).1

end Sys2Proof.Laws.MatchesRow
end

