-- ==== Sys2Proof/Laws/Step.lean ====
section
/-! SUPPORT. The fetch, and all that a step of the machine can do. -/

namespace Sys2Proof.Machine

/-- The fetch inside the address space (30_encoding.md R48). -/
theorem State.fetch_ok {s : State} (h : s.pc.toNat < 4095) :
    s.fetch = .ok (wordOfBytes (s.mem.read s.pc.toNat) (s.mem.read (s.pc.toNat + 1))) := Memory.read16_ok h

/-- The fetch that needs a byte above 0xFFF (30_encoding.md R48). -/
theorem State.fetch_error {s : State} (h : 4095 ≤ s.pc.toNat) :
    s.fetch = .error (if s.pc.toNat = 4095 then 4096 else s.pc.toNat) := Memory.read16_error h

/-- The instruction step with a word fetched. -/
theorem instructionStep_ok {s : State} {op : Word} (h : s.fetch = .ok op) :
    instructionStep s = exec (decode op) s := by
  unfold instructionStep; rw [h]

/-- The instruction step whose fetch faults. -/
theorem instructionStep_error {s : State} {a : Nat} (h : s.fetch = .error a) :
    instructionStep s = .next (s.raise (.addressOutOfRange .fetch) none (some a)) := by
  unfold instructionStep; rw [h]

/-- A step of a state that holds a fault record. -/
theorem step_faulted {s : State} {r : FaultRecord} (h : s.fault = some r) : step s = .fault (.stopped r) := by
  unfold step machineStep; rw [h]

/-- A step of a state in QUIT. -/
theorem step_quit {s : State} (hf : s.fault = none) (hr : s.run = .quit) : step s = .fault .quit := by
  unfold step machineStep; rw [hf, hr]

/-- A step with an empty schedule. -/
theorem step_unscheduled {s : State} (hf : s.fault = none) (hr : s.run ≠ .quit) (hs : s.schedule = []) :
    step s = perform .instruction s := by
  unfold step machineStep
  rw [hf]
  cases hrun : s.run <;> simp_all

/-- A step with a scheduled entry. -/
theorem step_scheduled {s : State} {a : Action} {l : List Action} (hf : s.fault = none) (hr : s.run ≠ .quit)
    (hs : s.schedule = a :: l) : step s = perform a (s.setSchedule l) := by
  unfold step machineStep
  rw [hf]
  cases hrun : s.run <;> simp_all

/-- The instruction step where it is enabled (30_encoding.md R47). -/
theorem perform_instruction {s : State} (hr : s.run = .running) (hf : s.fault = none) :
    perform .instruction s = instructionStep s :=
  if_pos (by simp [State.enables, hf, hr])

/-- The CPU's step, nothing scheduled. -/
theorem step_instruction {s : State} (hr : s.run = .running) (hf : s.fault = none) (hs : s.schedule = []) :
    step s = instructionStep s :=
  (step_unscheduled hf (by simp [hr]) hs).trans (perform_instruction hr hf)

/-- The CPU's step, scheduled. -/
theorem step_scheduled_instruction {s : State} {l : List Action} (hr : s.run = .running) (hf : s.fault = none)
    (hs : s.schedule = .instruction :: l) : step s = instructionStep (s.setSchedule l) :=
  (step_scheduled hf (by simp [hr]) hs).trans (perform_instruction (by simpa using hr) (by simpa using hf))

/-- A run of no steps. -/
theorem run_zero (s : State) : core.run 0 s = .next s := rfl

/-- A run of any machine whose first step answers a next state. -/
theorem run_of_step (M : Host.Core) {s t : M.State} (k : Nat) (h : M.step s = .next t) :
    M.run (k + 1) s = M.run k t := by
  simp only [Host.Core.run, h]

/-- A run whose first step answers a next state. -/
theorem run_step {s t : State} (k : Nat) (h : step s = .next t) : core.run (k + 1) s = core.run k t :=
  run_of_step core k h

/-- All that a step which answers a next state can have been (60_exceptions.md R92): one kind of step of the state with
the schedule's entry taken off, either enabled and performed, or not enabled and without effect. -/
theorem step_next_cases {s t : State} (h : step s = .next t) :
    s.fault = none ∧ s.run ≠ .quit ∧ ∃ a l,
      ((s.setSchedule l).enables a = true ∧ act a (s.setSchedule l) = .next t ∨
        (s.setSchedule l).enables a = false ∧ t = s.setSchedule l) := by
  rcases hf : s.fault with _ | r
  · by_cases hr : s.run = .quit
    · rw [step_quit hf hr] at h; cases h
    · refine ⟨rfl, hr, ?_⟩
      have core : ∀ (a : Action) (u : State), perform a u = .next t →
          u.enables a = true ∧ act a u = .next t ∨ u.enables a = false ∧ t = u := by
        intro a u hp
        unfold perform at hp
        split at hp
        · rename_i he; exact .inl ⟨he, hp⟩
        · rename_i he; exact .inr ⟨by simpa using he, by cases hp; rfl⟩
      rcases hs : s.schedule with _ | ⟨a, l⟩
      · rw [step_unscheduled hf hr hs] at h
        have e : s.setSchedule [] = s := by rw [← hs]; rfl
        exact ⟨.instruction, [], by rw [e]; exact core _ _ h⟩
      · rw [step_scheduled hf hr hs] at h
        exact ⟨a, l, core _ _ h⟩
  · rw [step_faulted hf] at h; cases h

end Sys2Proof.Machine
end

