-- ==== Sys2Proof/Tests/Slice0.lean ====
section
/-! SUPPORT. The model's own tests: expected values from spec/95_test_vectors.md (its vector ids in the docstrings) or by
hand from the encodings of 30_encoding.md; and for every statement with hypotheses, states and operands that meet them. -/

namespace Sys2Proof.Tests

open Sys2Proof.Machine

/-! ## Well-formedness: an ill-formed term for each check, refused -/

theorem test_wellFormed_refuses_cls_as_noOp : (Instr.nop0nnn 0x0E0#12).wellFormed = false := by decide
theorem test_wellFormed_refuses_ret_as_noOp : (Instr.nop0nnn 0x0EE#12).wellFormed = false := by decide
theorem test_wellFormed_refuses_5xy0_as_noOp : (Instr.nop5xyn 0x1#4 0x2#4 0x0#4).wellFormed = false := by decide
theorem test_wellFormed_refuses_9xy0_as_noOp : (Instr.nop9xyn 0x1#4 0x2#4 0x0#4).wellFormed = false := by decide
theorem test_wellFormed_accepts_neighbours :
    (Instr.nop0nnn 0x1E0#12).wellFormed = true ∧ (Instr.nop0nnn 0x0E1#12).wellFormed = true ∧
      (Instr.nop5xyn 0x1#4 0x2#4 0x1#4).wellFormed = true ∧ (Instr.nop9xyn 0x1#4 0x2#4 0xF#4).wellFormed = true := by
  decide

/-! ## Decoding: one word for every constructor, its four nibbles written out in bits from 30_encoding.md R50 and
44_no_op.md R84 to R91 -/

theorem test_decode_cls : decode (0b0000#4 ++ 0b0000#4 ++ 0b1110#4 ++ 0b0000#4) = .cls := by decide
theorem test_decode_ret : decode (0b0000#4 ++ 0b0000#4 ++ 0b1110#4 ++ 0b1110#4) = .ret := by decide
theorem test_decode_jp : decode (0b0001#4 ++ 0b1010#4 ++ 0b1011#4 ++ 0b1100#4) = .jp 0xABC#12 := by decide
theorem test_decode_call : decode (0b0010#4 ++ 0b0011#4 ++ 0b0000#4 ++ 0b0001#4) = .call 0x301#12 := by decide
theorem test_decode_seVxNn : decode (0b0011#4 ++ 0b0011#4 ++ 0b0100#4 ++ 0b0010#4) = .seVxNn 0x3#4 0x42#8 := by decide
theorem test_decode_sneVxNn : decode (0b0100#4 ++ 0b0011#4 ++ 0b0100#4 ++ 0b0010#4) = .sneVxNn 0x3#4 0x42#8 := by decide
theorem test_decode_seVxVy : decode (0b0101#4 ++ 0b0001#4 ++ 0b0010#4 ++ 0b0000#4) = .seVxVy 0x1#4 0x2#4 := by decide
theorem test_decode_ldVxNn : decode (0b0110#4 ++ 0b1010#4 ++ 0b0000#4 ++ 0b0101#4) = .ldVxNn 0xA#4 0x05#8 := by decide
theorem test_decode_addVxNn : decode (0b0111#4 ++ 0b1010#4 ++ 0b0000#4 ++ 0b0011#4) = .addVxNn 0xA#4 0x03#8 := by decide
theorem test_decode_ldVxVy : decode (0b1000#4 ++ 0b0001#4 ++ 0b0010#4 ++ 0b0000#4) = .ldVxVy 0x1#4 0x2#4 := by decide
theorem test_decode_orVxVy : decode (0b1000#4 ++ 0b0001#4 ++ 0b0010#4 ++ 0b0001#4) = .orVxVy 0x1#4 0x2#4 := by decide
theorem test_decode_andVxVy : decode (0b1000#4 ++ 0b0001#4 ++ 0b0010#4 ++ 0b0010#4) = .andVxVy 0x1#4 0x2#4 := by decide
theorem test_decode_xorVxVy : decode (0b1000#4 ++ 0b0001#4 ++ 0b0010#4 ++ 0b0011#4) = .xorVxVy 0x1#4 0x2#4 := by decide
theorem test_decode_addVxVy : decode (0b1000#4 ++ 0b0001#4 ++ 0b0010#4 ++ 0b0100#4) = .addVxVy 0x1#4 0x2#4 := by decide
theorem test_decode_subVxVy : decode (0b1000#4 ++ 0b0011#4 ++ 0b0100#4 ++ 0b0101#4) = .subVxVy 0x3#4 0x4#4 := by decide
theorem test_decode_shrVx : decode (0b1000#4 ++ 0b0001#4 ++ 0b0010#4 ++ 0b0110#4) = .shrVx 0x1#4 0x2#4 := by decide
theorem test_decode_subnVxVy : decode (0b1000#4 ++ 0b0001#4 ++ 0b0010#4 ++ 0b0111#4) = .subnVxVy 0x1#4 0x2#4 := by decide
theorem test_decode_shlVx : decode (0b1000#4 ++ 0b0001#4 ++ 0b0010#4 ++ 0b1110#4) = .shlVx 0x1#4 0x2#4 := by decide
theorem test_decode_sneVxVy : decode (0b1001#4 ++ 0b0001#4 ++ 0b0010#4 ++ 0b0000#4) = .sneVxVy 0x1#4 0x2#4 := by decide
theorem test_decode_ldINnn : decode (0b1010#4 ++ 0b1111#4 ++ 0b1110#4 ++ 0b1101#4) = .ldINnn 0xFED#12 := by decide
theorem test_decode_drw : decode (0b1101#4 ++ 0b0000#4 ++ 0b1111#4 ++ 0b0001#4) = .drw 0x0#4 0xF#4 0x1#4 := by decide
theorem test_decode_nop0nnn : decode (0b0000#4 ++ 0b0001#4 ++ 0b1110#4 ++ 0b0000#4) = .nop0nnn 0x1E0#12 := by decide
theorem test_decode_nop5xyn : decode (0b0101#4 ++ 0b0001#4 ++ 0b0010#4 ++ 0b0001#4) = .nop5xyn 0x1#4 0x2#4 0x1#4 := by decide
theorem test_decode_nop8xy8 : decode (0b1000#4 ++ 0b0001#4 ++ 0b0010#4 ++ 0b1000#4) = .nop8xy8 0x1#4 0x2#4 := by decide
theorem test_decode_nop8xy9 : decode (0b1000#4 ++ 0b0001#4 ++ 0b0010#4 ++ 0b1001#4) = .nop8xy9 0x1#4 0x2#4 := by decide
theorem test_decode_nop8xya : decode (0b1000#4 ++ 0b0001#4 ++ 0b0010#4 ++ 0b1010#4) = .nop8xya 0x1#4 0x2#4 := by decide
theorem test_decode_nop8xyb : decode (0b1000#4 ++ 0b0001#4 ++ 0b0010#4 ++ 0b1011#4) = .nop8xyb 0x1#4 0x2#4 := by decide
theorem test_decode_nop8xyc : decode (0b1000#4 ++ 0b0001#4 ++ 0b0010#4 ++ 0b1100#4) = .nop8xyc 0x1#4 0x2#4 := by decide
theorem test_decode_nop8xyd : decode (0b1000#4 ++ 0b0001#4 ++ 0b0010#4 ++ 0b1101#4) = .nop8xyd 0x1#4 0x2#4 := by decide
theorem test_decode_nop8xyf : decode (0b1000#4 ++ 0b0001#4 ++ 0b0010#4 ++ 0b1111#4) = .nop8xyf 0x1#4 0x2#4 := by decide
theorem test_decode_nop9xyn : decode (0b1001#4 ++ 0b0001#4 ++ 0b0010#4 ++ 0b0001#4) = .nop9xyn 0x1#4 0x2#4 0x1#4 := by decide
theorem test_decode_nopBnnn : decode (0b1011#4 ++ 0b0011#4 ++ 0b0000#4 ++ 0b0001#4) = .nopBnnn 0x301#12 := by decide
theorem test_decode_nopCxnn : decode (0b1100#4 ++ 0b0001#4 ++ 0b1111#4 ++ 0b1110#4) = .nopCxnn 0x1#4 0xFE#8 := by decide
theorem test_decode_nopExnn : decode (0b1110#4 ++ 0b0010#4 ++ 0b1001#4 ++ 0b1110#4) = .nopExnn 0x2#4 0x9E#8 := by decide
theorem test_decode_nopFxnn : decode (0b1111#4 ++ 0b0011#4 ++ 0b0000#4 ++ 0b1010#4) = .nopFxnn 0x3#4 0x0A#8 := by decide

/-- F1: the fields of 0x6A05, and the word's bytes read high byte first (30_encoding.md R44, R48). -/
theorem test_fields : fields 0x6A05#16 = ⟨0x6#4, 0xA#4, 0x0#4, 0x5#4, 0x05#8, 0xA05#12⟩ := by decide
theorem test_decodeBytes_high_byte_first :
    decodeBytes [0x6A#8, 0x05#8, 0x7A#8] = .ok (.ldVxNn 0xA#4 0x05#8, [0x7A#8]) := by rfl
theorem test_decodeBytes_truncated :
    decodeBytes [0x6A#8] = .error (.truncated 1) ∧ decodeBytes [] = .error (.truncated 0) := ⟨rfl, rfl⟩
theorem test_decodeTableWord : decodeTableWord 16 0x8345 = some (.subVxVy 0x3#4 0x4#4) := by decide

/-! ## The helpers of the step tests -/

/-- Some registers set. -/
def withV (s : State) : List (Nibble × Byte) → State
  | [] => s
  | (r, b) :: l => withV (s.setV r b) l

/-- Some bytes of memory set. -/
def withBytes (s : State) (a : Nat) (l : List Byte) : State := { s with mem := s.mem.writeBytes a l }

/-- Some pixels on, given as (column, row). -/
def withLit (s : State) : List (Nat × Nat) → State
  | [] => s
  | (x, y) :: l => withLit (s.setDisp (s.disp.setPixel y x true)) l

/-- SP and one stack entry set. -/
def withStack (s : State) (sp : Fin 13) (k : Fin 12) (w : Word) : State :=
  { s with sp := sp, stack := s.stack.set k.val w k.isLt }

/-- The next state, if a step answers one. -/
def nextOf (o : Host.Outcome State Fault Refusal) : Option State :=
  match o with
  | .next t => some t
  | .fault _ => none
  | .refused _ => none

/-- One step from reset with the registers set and the word at 0x200. -/
def run1 (w : Nat) (regs : List (Nibble × Byte)) : Option State :=
  nextOf (step ((withV State.reset regs).withFetchWord 16 w))

/-- What is looked at: some registers, and PC. -/
def look (o : Option State) (rs : List Nibble) : Option (List Byte × Word) :=
  o.map fun t => (rs.map t.getV, t.pc)

/-- What is looked at of a draw: some pixels as (column, row), VF and PC. -/
def lookAt (o : Option State) (ps : List (Nat × Nat)) : Option (List Bool × Byte × Word) :=
  o.map fun t => (ps.map fun p => t.disp.pixel p.2 p.1, t.getV 0xF#4, t.pc)

/-- The fault record, PC and SP after a step. -/
def lookFault (o : Option State) : Option (Option FaultRecord × Word × Nat) :=
  o.map fun t => (t.fault, t.pc, t.sp.val)

/-! ## Fetch (vectors F2 to F6) -/

/-- F2: an odd PC. -/
theorem test_fetch_odd_pc :
    look (nextOf (step ((State.reset.setPc 0x201#16).withFetchWord 16 0x607F))) [0x0#4] = some ([0x7F#8], 0x203#16) := by
  decide +kernel
/-- F3: the last legal fetch. -/
theorem test_fetch_last_word :
    look (nextOf (step ((State.reset.setPc 0xFFE#16).withFetchWord 16 0x6001))) [0x0#4] = some ([0x01#8], 0x1000#16) := by
  decide +kernel
/-- F4: one byte past the end. -/
theorem test_fetch_at_fff :
    lookFault (nextOf (step (State.reset.setPc 0xFFF#16))) =
      some (some ⟨.addressOutOfRange .fetch, 0xFFF#16, none, some 0x1000⟩, 0xFFF#16, 0) := by decide +kernel
/-- F6: past the end. -/
theorem test_fetch_at_1002 :
    lookFault (nextOf (step (State.reset.setPc 0x1002#16))) =
      some (some ⟨.addressOutOfRange .fetch, 0x1002#16, none, some 0x1002⟩, 0x1002#16, 0) := by decide +kernel
/-- B3: nothing placed, so the first step from reset is the no-op 0x0000. -/
theorem test_reset_runs_zero_word : look (nextOf (step State.reset)) [0x0#4] = some ([0x00#8], 0x202#16) := by
  decide +kernel

/-! ## Control flow (vectors C1 to C22) -/

/-- C1 -/
theorem test_jp :
    look (run1 0x1ABC []) [0x0#4] = some ([0x00#8], 0xABC#16) := by decide +kernel
/-- C2 -/
theorem test_jp_odd :
    look (run1 0x1201 []) [0x0#4] = some ([0x00#8], 0x201#16) := by decide +kernel
/-- C6: the 12th call succeeds. -/
theorem test_call_twelfth :
    ((nextOf (step ((withStack State.reset 11 0 0x202#16).withFetchWord 16 0x2400))).map fun t =>
      (t.stack[11], t.stack[0], t.sp.val, t.pc)) = some (0x202#16, 0x202#16, 12, 0x400#16) := by decide +kernel
/-- C5: the stack is full. -/
theorem test_call_overflow :
    lookFault (nextOf (step ((withStack State.reset 12 0 0x202#16).withFetchWord 16 0x2400))) =
      some (some ⟨.stackOverflow, 0x200#16, some 0x2400#16, none⟩, 0x200#16, 12) := by decide +kernel
/-- C10. -/
theorem test_ret :
    ((nextOf (step ((withStack (State.reset.setPc 0x300#16) 2 1 0x1000#16).withFetchWord 16 0x00EE))).map fun t =>
      (t.sp.val, t.pc)) = some (1, 0x1000#16) := by decide +kernel
/-- C8. -/
theorem test_ret_underflow :
    lookFault (run1 0x00EE []) = some (some ⟨.stackUnderflow, 0x200#16, some 0x00EE#16, none⟩, 0x200#16, 0) := by
  decide +kernel
/-- C11 -/
theorem test_seVxNn_skips :
    look (run1 0x3342 [(0x3#4, 0x42#8)]) [0x3#4] = some ([0x42#8], 0x204#16) := by decide +kernel
/-- C12 -/
theorem test_seVxNn_falls_through :
    look (run1 0x3343 [(0x3#4, 0x42#8)]) [0x3#4] = some ([0x42#8], 0x202#16) := by decide +kernel
/-- C13 -/
theorem test_sneVxNn_falls_through :
    look (run1 0x4342 [(0x3#4, 0x42#8)]) [0x3#4] = some ([0x42#8], 0x202#16) := by decide +kernel
/-- C14 -/
theorem test_sneVxNn_skips :
    look (run1 0x4300 [(0x3#4, 0x42#8)]) [0x3#4] = some ([0x42#8], 0x204#16) := by decide +kernel
/-- C15 -/
theorem test_seVxVy_skips :
    look (run1 0x5120 [(0x1#4, 0x07#8), (0x2#4, 0x07#8)]) [0x1#4] = some ([0x07#8], 0x204#16) := by decide +kernel
/-- C16 -/
theorem test_seVxVy_falls_through :
    look (run1 0x5120 [(0x1#4, 0x07#8), (0x2#4, 0x08#8)]) [0x1#4] = some ([0x07#8], 0x202#16) := by decide +kernel
/-- C18 -/
theorem test_sneVxVy_skips :
    look (run1 0x9120 [(0x1#4, 0x01#8), (0x2#4, 0x02#8)]) [0x1#4] = some ([0x01#8], 0x204#16) := by decide +kernel
/-- C19 -/
theorem test_sneVxVy_falls_through :
    look (run1 0x9120 [(0x1#4, 0x02#8), (0x2#4, 0x02#8)]) [0x1#4] = some ([0x02#8], 0x202#16) := by decide +kernel

/-! ## Register loads (vectors L1 to L7) -/

/-- L1 -/
theorem test_ldVxNn :
    look (run1 0x6512 [(0x5#4, 0x99#8)]) [0x5#4] = some ([0x12#8], 0x202#16) := by decide +kernel
/-- L2 -/
theorem test_ldVxNn_vf :
    look (run1 0x6F00 [(0xF#4, 0x01#8)]) [0xF#4] = some ([0x00#8], 0x202#16) := by decide +kernel
/-- L3 -/
theorem test_addVxNn_no_carry :
    look (run1 0x75FF [(0x5#4, 0x01#8)]) [0x5#4, 0xF#4] = some ([0x00#8, 0x00#8], 0x202#16) := by decide +kernel
/-- L4 -/
theorem test_addVxNn_vf :
    look (run1 0x7FFF [(0xF#4, 0x01#8)]) [0xF#4] = some ([0x00#8], 0x202#16) := by decide +kernel
/-- L6 -/
theorem test_ldINnn : ((run1 0xAFFF []).map fun t => (t.i, t.pc)) = some (0x0FFF#16, 0x202#16) := by decide +kernel

/-! ## The ALU and shift unit (vectors A1 to A33) -/

/-- A1 -/
theorem test_ldVxVy :
    look (run1 0x8120 [(0x1#4, 0x12#8), (0x2#4, 0x34#8), (0xF#4, 0x55#8)]) [0x1#4, 0xF#4] = some ([0x34#8, 0x55#8], 0x202#16) := by decide +kernel
/-- A2 -/
theorem test_ldVxVy_vf :
    look (run1 0x8F20 [(0x2#4, 0x34#8), (0xF#4, 0x55#8)]) [0xF#4] = some ([0x34#8], 0x202#16) := by decide +kernel
/-- A3 -/
theorem test_orVxVy :
    look (run1 0x8121 [(0x1#4, 0xF0#8), (0x2#4, 0x0F#8), (0xF#4, 0x55#8)]) [0x1#4, 0xF#4] = some ([0xFF#8, 0x55#8], 0x202#16) := by decide +kernel
/-- A4 -/
theorem test_andVxVy :
    look (run1 0x8122 [(0x1#4, 0xF0#8), (0x2#4, 0x3C#8)]) [0x1#4] = some ([0x30#8], 0x202#16) := by decide +kernel
/-- A5 -/
theorem test_xorVxVy :
    look (run1 0x8123 [(0x1#4, 0xF0#8), (0x2#4, 0x3C#8)]) [0x1#4] = some ([0xCC#8], 0x202#16) := by decide +kernel
/-- A6 -/
theorem test_xorVxVy_same :
    look (run1 0x8113 [(0x1#4, 0xA5#8)]) [0x1#4] = some ([0x00#8], 0x202#16) := by decide +kernel
/-- A8 -/
theorem test_addVxVy_255 :
    look (run1 0x8124 [(0x1#4, 0x7F#8), (0x2#4, 0x80#8)]) [0x1#4, 0xF#4] = some ([0xFF#8, 0x00#8], 0x202#16) := by decide +kernel
/-- A12 -/
theorem test_addVxVy_y_is_vf :
    look (run1 0x81F4 [(0x1#4, 0xFF#8), (0xF#4, 0x01#8)]) [0x1#4, 0xF#4] = some ([0x00#8, 0x01#8], 0x202#16) := by decide +kernel
/-- A14 -/
theorem test_subVxVy_equal :
    look (run1 0x8125 [(0x1#4, 0x05#8), (0x2#4, 0x05#8)]) [0x1#4, 0xF#4] = some ([0x00#8, 0x01#8], 0x202#16) := by decide +kernel
/-- A18 -/
theorem test_subVxVy_x_is_vf :
    look (run1 0x8F25 [(0x2#4, 0x05#8), (0xF#4, 0x0A#8)]) [0xF#4] = some ([0x01#8], 0x202#16) := by decide +kernel
/-- A20 -/
theorem test_shrVx_ignores_y :
    look (run1 0x8126 [(0x1#4, 0x05#8), (0x2#4, 0xFF#8)]) [0x1#4, 0xF#4] = some ([0x02#8, 0x01#8], 0x202#16) := by decide +kernel
/-- A24 -/
theorem test_shrVx_x_is_vf :
    look (run1 0x8F06 [(0xF#4, 0x02#8)]) [0xF#4] = some ([0x00#8], 0x202#16) := by decide +kernel
/-- A26 -/
theorem test_subnVxVy_borrow :
    look (run1 0x8127 [(0x1#4, 0x10#8), (0x2#4, 0x05#8)]) [0x1#4, 0xF#4] = some ([0xF5#8, 0x00#8], 0x202#16) := by decide +kernel
/-- A28 -/
theorem test_subnVxVy_x_is_vf :
    look (run1 0x8F27 [(0x2#4, 0x0A#8), (0xF#4, 0x05#8)]) [0xF#4] = some ([0x01#8], 0x202#16) := by decide +kernel
/-- A29 -/
theorem test_shlVx_ignores_y :
    look (run1 0x812E [(0x1#4, 0x81#8), (0x2#4, 0x00#8)]) [0x1#4, 0xF#4] = some ([0x02#8, 0x01#8], 0x202#16) := by decide +kernel
/-- A33 -/
theorem test_shlVx_x_is_vf :
    look (run1 0x8F0E [(0xF#4, 0x01#8)]) [0xF#4] = some ([0x00#8], 0x202#16) := by decide +kernel

/-! ## The display (vectors D7, D12, D14) -/

/-- One step from reset with I, some bytes there, registers and lit pixels set. -/
def draw1 (w : Nat) (base : Word) (sprite : List Byte) (regs : List (Nibble × Byte)) (lit : List (Nat × Nat)) :
    Option State :=
  nextOf (step ((withLit (withBytes ((withV State.reset regs).setI base) base.toNat sprite) lit).withFetchWord 16 w))

/-- D12: two rows, clipped at the right edge, with a collision. -/
theorem test_drw_two_rows :
    lookAt (draw1 0xD012 0x300#16 [0xAA#8, 0x55#8] [(0x0#4, 60#8)] [(62, 0)])
      [(60, 0), (61, 0), (62, 0), (63, 0), (60, 1), (61, 1), (62, 1), (63, 1), (0, 0), (1, 1)] =
    some ([true, false, false, false, false, true, false, true, false, false], 0x01#8, 0x202#16) := by decide +kernel
/-- D7: a drawn row above 0xFFF; not even the rows before it are drawn. -/
theorem test_drw_out_of_range :
    lookFault (draw1 0xD014 0xFFE#16 [0x80#8, 0x80#8] [] []) =
      some (some ⟨.addressOutOfRange .sprite, 0x200#16, some 0xD014#16, some 0x1000⟩, 0x200#16, 0) ∧
    lookAt (draw1 0xD014 0xFFE#16 [0x80#8, 0x80#8] [] []) [(0, 0), (0, 1)] =
      some ([false, false], 0x00#8, 0x200#16) := by decide +kernel
/-- D14: CLS writes no flag. -/
theorem test_cls :
    lookAt (draw1 0x00E0 0x000#16 [] [(0xF#4, 0x03#8)] [(0, 0), (63, 31)]) [(0, 0), (63, 31)] =
    some ([false, false], 0x03#8, 0x202#16) := by decide +kernel

/-! ## The no-op spaces (vectors N1 to N14): only PC changes -/

/-- The start state of the no-op vectors: V and I filled, one stack entry, some pixels lit, both timers running. -/
def busy : State :=
  (withLit (withStack { State.reset with v := Vector.ofFn fun k => BitVec.ofNat 8 (0x11 * k.val) } 1 0 0x202#16)
    [(1, 2), (63, 31)]).setI 0x300#16 |>.setTimers 200#8 9#8

/-- After the word, the state is the start state but for PC (compared whole but for memory and display, which are compared
at a few places). -/
def onlyPcMoves (w : Nat) : Bool :=
  match nextOf (step (busy.withFetchWord 16 w)) with
  | none => false
  | some t =>
    t.v == busy.v && t.i == busy.i && t.pc == 0x202#16 && t.stack == busy.stack && t.sp == busy.sp && t.key == busy.key &&
      t.dt == 200#8 && t.st == 9#8 && t.run == .running && t.fault.isNone && t.disp.pixel 2 1 && t.disp.pixel 31 63 &&
      !t.disp.pixel 0 0 && t.mem == (busy.withFetchWord 16 w).mem

theorem test_nop_0nnn : [0x0000, 0x0123, 0x00E1, 0x01E0, 0x00FF].all onlyPcMoves = true := by decide +kernel
theorem test_nop_5xyn : [0x5121].all onlyPcMoves = true := by decide +kernel
theorem test_nop_8xyn : [0x8128, 0x8129, 0x812A, 0x812B, 0x812C, 0x812D, 0x812F].all onlyPcMoves = true := by decide +kernel
theorem test_nop_9xyn : [0x9121].all onlyPcMoves = true := by decide +kernel
theorem test_nop_Bnnn : [0xB300].all onlyPcMoves = true := by decide +kernel
theorem test_nop_Cxnn : [0xC0FF].all onlyPcMoves = true := by decide +kernel
theorem test_nop_Exnn : [0xE09E, 0xE0A1].all onlyPcMoves = true := by decide +kernel
theorem test_nop_Fxnn : [0xF00A, 0xF015, 0xF01E, 0xF055, 0xF065].all onlyPcMoves = true := by decide +kernel

/-! ## Timers, keypad, run-state (vectors M1 to M6, H1 to H7) -/

/-- One step from reset with the timers and the run-state set and one entry scheduled: DT, ST, the run-state and whether
the sound is on. -/
def event (dt st : Byte) (run : RunState) (a : Action) : Option (Byte × Byte × RunState × Bool) :=
  (nextOf (step { State.reset with dt := dt, st := st, run := run, schedule := [a] })).map fun t =>
    (t.dt, t.st, t.run, t.soundOn)

/-- M4, M2, M3, M5. -/
theorem test_tick :
    event 5#8 9#8 .running .tick = some (4#8, 8#8, .running, true) ∧
    event 0#8 0#8 .running .tick = some (0#8, 0#8, .running, false) ∧
    event 0#8 1#8 .running .tick = some (0#8, 0#8, .running, false) ∧
    event 5#8 0#8 .paused .tick = some (5#8, 0#8, .paused, false) := by decide +kernel
/-- H1, H2, H4. -/
theorem test_run_state :
    event 5#8 9#8 .running .togglePause = some (5#8, 9#8, .paused, true) ∧
    event 5#8 9#8 .paused .togglePause = some (5#8, 9#8, .running, true) ∧
    event 5#8 9#8 .running .quit = some (5#8, 9#8, .quit, true) ∧
    event 5#8 9#8 .paused .quit = some (5#8, 9#8, .quit, true) := by decide +kernel
/-- H3: paused, PC does not move. -/
theorem test_paused_waits : look (nextOf (step { State.reset with run := .paused })) [] = some ([], 0x200#16) := by
  decide +kernel
/-- H5: no step from QUIT. -/
theorem test_quit_is_final : event 5#8 9#8 .quit .togglePause = none ∧ event 5#8 9#8 .quit .tick = none := by
  decide +kernel
/-- F7, M6, H7: no step once a fault is recorded. -/
theorem test_fault_is_final :
    step (State.reset.raise .stackUnderflow (some 0x00EE#16) none) =
      .fault (.stopped ⟨.stackUnderflow, 0x200#16, some 0x00EE#16, none⟩) := rfl
/-- H6. -/
theorem test_setKey :
    ((nextOf (step { State.reset with run := .paused, schedule := [.setKey 0x5#4 true] })).map fun t =>
      (t.getKey 0x5#4, t.getKey 0x4#4, t.getKey 0x6#4, t.run)) = some (true, false, false, .paused) := by decide +kernel

/-! ## Boot (vectors B1 to B4) -/

/-- B1: one byte too many. -/
theorem test_boot_too_long : boot (List.replicate 3585 0x01#8) = .fault (.romTooLong 3585) := by
  unfold boot
  rw [if_neg (by rw [List.length_replicate]; decide), List.length_replicate]
/-- B2: the longest ROM. -/
theorem test_boot_longest : boot (List.replicate 3584 0x01#8) = .next (State.reset.booted font (List.replicate 3584 0x01#8)) := by
  unfold boot
  rw [if_pos (by rw [List.length_replicate]; decide)]
/-- B4: the registers after boot. -/
theorem test_boot_registers :
    ((nextOf (boot [0x6A#8, 0x05#8, 0x00#8])).map fun t => (t.pc, t.sp.val, t.run, t.fault)) =
    some (0x200#16, 0, .running, none) := by decide +kernel
/-- B4: the ROM, with the first bytes of program P1, and the font. -/
theorem test_boot_memory :
    ((nextOf (boot [0x6A#8, 0x05#8, 0x00#8])).map fun t =>
      [0x000, 0x001, 0x04F, 0x050, 0x1FF, 0x200, 0x201, 0x202, 0x203].map t.mem.read) =
    some [0xF0#8, 0x90#8, 0x80#8, 0x00#8, 0x00#8, 0x6A#8, 0x05#8, 0x00#8, 0x00#8] := by decide +kernel
/-- Writing back what an unlisted address reads as takes the address off the list. -/
theorem test_memory_canonical :
    Memory.write (Memory.write [] 0x300 0x12#8) 0x300 0x00#8 = [] ∧
      Memory.write (Memory.write [] 0x301 0x12#8) 0x300 0x34#8 = [(0x300, 0x34#8), (0x301, 0x12#8)] := by
  decide +kernel

/-! ## Witnesses: for each statement of Certificates/Slice0/Obligations.lean with hypotheses, a state and operands that
meet them, at the boundaries of each clause -/

/-- DecodeInvertsEncode. -/
theorem witness_DecodeInvertsEncode :
    (Instr.nop0nnn 0x0E1#12).wellFormed = true ∧ (Instr.nop5xyn 0x0#4 0xF#4 0x1#4).wellFormed = true ∧
      (Instr.drw 0xF#4 0x0#4 0xF#4).wellFormed = true := by decide

/-- DecodeAgreesWithOpcodeMap: every row selects a word, and some word is selected by none. -/
theorem witness_DecodeAgreesWithOpcodeMap :
    (∀ r ∈ opcodeMap, r.selects r.pattern = true) ∧ (∀ r ∈ opcodeMap, r.selects 0xF00A#16 = false) := by decide

/-- The CPU's step next, with a word at PC. -/
def ready (pc : Word) (w : Nat) (schedule : List Action) : State :=
  ((State.reset.setPc pc).withFetchWord 16 w).setSchedule schedule

/-- StepRunsDecodedInstruction: PC at the first and the last address that a fetch may have, nothing or something
scheduled. -/
theorem witness_StepRunsDecodedInstruction :
    ([0x000#16, 0x200#16, 0xFFE#16].all fun pc => [[], [Action.instruction, .tick]].all fun l =>
      let s := ready pc 0x6A05 l
      s.run == .running && s.fault.isNone && decide (s.pc.toNat ≤ 0xFFE) && s.schedule == l &&
        decide ((0x6A05#16).toNat = 256 * (s.mem.read s.pc.toNat).toNat + (s.mem.read (s.pc.toNat + 1)).toNat)) = true := by
  decide +kernel

/-- FetchAboveMemoryFaults: at 0xFFF and above, nothing or an instruction step scheduled. -/
theorem witness_FetchAboveMemoryFaults :
    ([0xFFF#16, 0x1000#16, 0xFFFF#16].all fun pc => [[], [Action.instruction], [Action.instruction, .tick]].all fun l =>
      let s := (State.reset.setPc pc).setSchedule l
      s.run == .running && s.fault.isNone && decide (0xFFF ≤ s.pc.toNat) && s.schedule == l) = true := by decide

/-- PlacedWordRunsNext. -/
theorem witness_PlacedWordRunsNext :
    (State.reset.mem.wf = true ∧ State.reset.pc.toNat ≤ 0xFFE) ∧
    ((State.reset.setPc 0xFFE#16).mem.wf = true ∧ (State.reset.setPc 0xFFE#16).pc.toNat ≤ 0xFFE) := by decide

/-- The first clauses of JpSetsPc, CallPushesOrOverflows, RetPopsOrUnderflows, ClsClearsDisplay and
DrwXorsSpriteAndReportsCollision. -/
theorem witness_words_of_control_and_display :
    0x1ABC#16 &&& 0xF000#16 = 0x1000#16 ∧ 0x2400#16 &&& 0xF000#16 = 0x2000#16 ∧
      0xD0F1#16 &&& 0xF000#16 = 0xD000#16 := by decide

/-- CallPushesOrOverflows: 0, 11 and 12 occupied entries. -/
theorem witness_CallPushesOrOverflows :
    State.reset.sp.val < 12 ∧ (withStack State.reset 11 10 0x202#16).sp.val < 12 ∧
      (withStack State.reset 12 11 0x202#16).sp.val = 12 := by decide

/-- RetPopsOrUnderflows: 1, 12 and no occupied entries. -/
theorem witness_RetPopsOrUnderflows :
    0 < (withStack State.reset 1 0 0x202#16).sp.val ∧ 0 < (withStack State.reset 12 11 0x202#16).sp.val ∧
      State.reset.sp.val = 0 := by decide

/-- CallThenReturnComesBack: the deepest call that succeeds. -/
theorem witness_CallThenReturnComesBack : (withStack State.reset 11 10 0x202#16).sp.val < 12 := by decide

/-- The first clauses of SkipsOnImmediate, SkipsOnRegisters, LoadsAndAddsImmediate and LoadsIndex. -/
theorem witness_words_of_skips_and_loads :
    0x3342#16 &&& 0xF000#16 = 0x3000#16 ∧ 0x4342#16 &&& 0xF000#16 = 0x4000#16 ∧
      0x5120#16 &&& 0xF00F#16 = 0x5000#16 ∧ 0x9120#16 &&& 0xF00F#16 = 0x9000#16 ∧
      (0x5121#16 &&& 0xF000#16 = 0x5000#16 ∧ 0x5121#16 &&& 0x000F#16 ≠ 0#16) ∧
      (0x912F#16 &&& 0xF000#16 = 0x9000#16 ∧ 0x912F#16 &&& 0x000F#16 ≠ 0#16) ∧
      0x6512#16 &&& 0xF000#16 = 0x6000#16 ∧ 0x75FF#16 &&& 0xF000#16 = 0x7000#16 ∧
      0xAFFF#16 &&& 0xF000#16 = 0xA000#16 := by decide

/-- The first clauses of the ALU's statements. -/
theorem witness_words_of_alu :
    0x8120#16 &&& 0xF00F#16 = 0x8000#16 ∧ 0x8121#16 &&& 0xF00F#16 = 0x8001#16 ∧ 0x8122#16 &&& 0xF00F#16 = 0x8002#16 ∧
      0x8123#16 &&& 0xF00F#16 = 0x8003#16 ∧ 0x8124#16 &&& 0xF00F#16 = 0x8004#16 ∧
      0x8125#16 &&& 0xF00F#16 = 0x8005#16 ∧ 0x8127#16 &&& 0xF00F#16 = 0x8007#16 ∧
      0x8126#16 &&& 0xF00F#16 = 0x8006#16 ∧ 0x812E#16 &&& 0xF00F#16 = 0x800E#16 := by decide

/-- DrwXorsSpriteAndReportsCollision: a tall sprite; rows clipped before they would be unreadable (D6); no rows with I
beyond memory. -/
theorem witness_DrwXorsSpriteAndReportsCollision :
    State.reset.spriteReadable 0x1#4 0xF#4 ∧
    ((State.reset.setV 0x1#4 30#8).setI 0xFFE#16).spriteReadable 0x1#4 0x4#4 ∧
    (State.reset.setI 0xFFFF#16).spriteReadable 0x1#4 0x0#4 := by
  unfold State.spriteReadable
  decide +kernel

/-- DrwFaultsOnUnreadableRow: row 2 after two readable rows (D7), and row 0 with I at its largest. -/
theorem witness_DrwFaultsOnUnreadableRow :
    (2 < (0x4#4).toNat ∧ (State.reset.setI 0xFFE#16).startY 0x1#4 + 2 < 32 ∧
      0xFFF < (State.reset.setI 0xFFE#16).i.toNat + 2 ∧
      ∀ j, j < 2 → (State.reset.setI 0xFFE#16).i.toNat + j ≤ 0xFFF) ∧
    (0 < (0x1#4).toNat ∧ (State.reset.setI 0xFFFF#16).startY 0x1#4 + 0 < 32 ∧
      0xFFF < (State.reset.setI 0xFFFF#16).i.toNat + 0 ∧
      ∀ j, j < 0 → (State.reset.setI 0xFFFF#16).i.toNat + j ≤ 0xFFF) := by decide +kernel

/-- DrawingTwiceRestoresDisplay. -/
theorem witness_DrawingTwiceRestoresDisplay :
    0x0#4 ≠ 0xF#4 ∧ 0x1#4 ≠ 0xF#4 ∧ State.reset.spriteReadable 0x1#4 0x5#4 := by
  unfold State.spriteReadable
  decide +kernel

/-- UnimplementedWordsAreNoOps, each clause. -/
theorem witness_UnimplementedWordsAreNoOps :
    (0x00E1#16 &&& 0xF000#16 = 0x0000#16 ∧ 0x00E1#16 ≠ 0x00E0#16 ∧ 0x00E1#16 ≠ 0x00EE#16) ∧
    (0x5121#16 &&& 0xF000#16 = 0x5000#16 ∧ 0x5121#16 &&& 0x000F#16 ≠ 0#16) ∧
    (0x8128#16 &&& 0xF00F#16 = 0x8008#16 ∧ 0x8129#16 &&& 0xF00F#16 = 0x8009#16 ∧ 0x812A#16 &&& 0xF00F#16 = 0x800A#16 ∧
      0x812B#16 &&& 0xF00F#16 = 0x800B#16 ∧ 0x812C#16 &&& 0xF00F#16 = 0x800C#16 ∧
      0x812D#16 &&& 0xF00F#16 = 0x800D#16 ∧ 0x812F#16 &&& 0xF00F#16 = 0x800F#16) ∧
    (0x9121#16 &&& 0xF000#16 = 0x9000#16 ∧ 0x9121#16 &&& 0x000F#16 ≠ 0#16) ∧
    0xB300#16 &&& 0xF000#16 = 0xB000#16 ∧ 0xC0FF#16 &&& 0xF000#16 = 0xC000#16 ∧
    0xE09E#16 &&& 0xF000#16 = 0xE000#16 ∧ 0xF00A#16 &&& 0xF000#16 = 0xF000#16 ∧
    (Instr.nopFxnn 0x0#4 0x0A#8).implemented = false := by decide

/-- FaultingInstructionCommitsNothing and OnlyCallRetDrwRaise: each of the three that raise. -/
theorem witness_OnlyCallRetDrwRaise :
    (∃ t r, exec .ret State.reset = .next t ∧ State.reset.fault = none ∧ t.fault = some r) ∧
    (∃ t r, exec (.call 0x400#12) (withStack State.reset 12 0 0x202#16) = .next t ∧
      (withStack State.reset 12 0 0x202#16).fault = none ∧ t.fault = some r) ∧
    (∃ t r, exec (.drw 0x0#4 0x1#4 0x4#4) (State.reset.setI 0xFFFF#16) = .next t ∧
      (State.reset.setI 0xFFFF#16).fault = none ∧ t.fault = some r) :=
  ⟨⟨_, _, rfl, rfl, rfl⟩, ⟨_, _, rfl, rfl, rfl⟩, ⟨_, _, rfl, rfl, rfl⟩⟩

/-- FaultIsTerminal. -/
theorem witness_FaultIsTerminal :
    (State.reset.raise .stackUnderflow (some 0x00EE#16) none).fault =
      some ⟨.stackUnderflow, 0x200#16, some 0x00EE#16, none⟩ := rfl

/-- Reset with a run-state and a schedule. -/
def scheduled (r : RunState) (l : List Action) : State := { State.reset with run := r, schedule := l }

/-- TickCountsTimersDown: a tick scheduled in RUNNING and in PAUSED, without a fault. -/
theorem witness_TickCountsTimersDown :
    ((scheduled .running [.tick]).fault = none ∧ (scheduled .running [.tick]).schedule = .tick :: [] ∧
      (scheduled .running [.tick]).run = .running) ∧
    ((scheduled .paused [.tick]).fault = none ∧ (scheduled .paused [.tick]).schedule = .tick :: [] ∧
      (scheduled .paused [.tick]).run = .paused) := by decide

/-- SetKeyWritesOneKey: the first and the last key, in PAUSED and in RUNNING. -/
theorem witness_SetKeyWritesOneKey :
    ((scheduled .paused [.setKey 0x0#4 true]).fault = none ∧ (scheduled .paused [.setKey 0x0#4 true]).run ≠ .quit ∧
      (scheduled .paused [.setKey 0x0#4 true]).schedule = .setKey 0x0#4 true :: []) ∧
    ((scheduled .running [.setKey 0xF#4 false]).fault = none ∧ (scheduled .running [.setKey 0xF#4 false]).run ≠ .quit ∧
      (scheduled .running [.setKey 0xF#4 false]).schedule = .setKey 0xF#4 false :: []) ∧ 0x1#4 ≠ 0x0#4 := by decide

/-- RunStateTransitions: each row of the table, QUIT, and a fault recorded. -/
theorem witness_RunStateTransitions :
    ((scheduled .running [.togglePause]).fault = none ∧
      (scheduled .running [.togglePause]).schedule = .togglePause :: [] ∧
      (scheduled .running [.togglePause]).run = .running) ∧
    ((scheduled .paused [.togglePause]).fault = none ∧
      (scheduled .paused [.togglePause]).schedule = .togglePause :: [] ∧
      (scheduled .paused [.togglePause]).run = .paused) ∧
    ((scheduled .running [.quit]).fault = none ∧ (scheduled .running [.quit]).schedule = .quit :: [] ∧
      (scheduled .running [.quit]).run ≠ .quit) ∧
    ((scheduled .paused [.quit]).fault = none ∧ (scheduled .paused [.quit]).schedule = .quit :: [] ∧
      (scheduled .paused [.quit]).run ≠ .quit) ∧
    ((scheduled .quit []).fault = none ∧ (scheduled .quit []).run = .quit) ∧
    (State.reset.raise .stackUnderflow (some 0x00EE#16) none).fault ≠ none := by decide

/-- PausedWaitsUnchanged: nothing scheduled, and an instruction step scheduled. -/
theorem witness_PausedWaitsUnchanged :
    ((scheduled .paused []).fault = none ∧ (scheduled .paused []).run = .paused ∧
      (scheduled .paused []).schedule = []) ∧
    ((scheduled .paused [.instruction]).fault = none ∧ (scheduled .paused [.instruction]).run = .paused ∧
      (scheduled .paused [.instruction]).schedule = .instruction :: []) := by decide

/-- TickCommutesWithInstruction: an instruction step that raises nothing. -/
theorem witness_TickCommutesWithInstruction :
    (ready 0x200#16 0x6A05 []).run = .running ∧ (ready 0x200#16 0x6A05 []).fault = none ∧
      ∀ t, instructionStep (ready 0x200#16 0x6A05 []) = .next t → t.fault = none :=
  ⟨rfl, rfl, fun _ h => by cases h; rfl⟩

/-- StepKeepsInvariant and NoStepWritesMemory: reset meets the invariant, and steps. -/
theorem witness_StepKeepsInvariant : State.reset.Inv ∧ ∃ t, step State.reset = .next t :=
  ⟨⟨rfl, by decide, by decide, fun _ _ h => absurd h (Nat.not_lt_zero _), fun _ h => by cases h⟩, _, rfl⟩

/-- BootEstablishesInvariant and BootLoadsFontAndRom: the default initial values and others, the shortest and the longest
ROM, and one byte more. -/
theorem witness_BootLoadsFontAndRom :
    (State.reset.mem.wf = true ∧ State.reset.i.toNat ≤ 0xFFF ∧
      ∃ s, bootWith State.reset (Vector.replicate 80 0#8) [] = .next s) ∧
    (((withBytes State.reset 0x100 [0x12#8]).setI 0xFFF#16).mem.wf = true ∧
      ((withBytes State.reset 0x100 [0x12#8]).setI 0xFFF#16).i.toNat ≤ 0xFFF) ∧
    ([] : List Byte).length ≤ 3584 ∧ (List.replicate 3584 0x01#8).length ≤ 3584 ∧
    3584 < (List.replicate 3585 0x01#8).length := by
  refine ⟨⟨rfl, by decide, _, if_pos (by decide)⟩, by decide +kernel, by decide, ?_, ?_⟩
  · rw [List.length_replicate]
  · rw [List.length_replicate]; decide

/-- OnlyListedRegistersWritten, OnlyTheirWritersChangeState, SequentialInstructionsAdvancePc. -/
theorem witness_SequentialInstructionsAdvancePc :
    ∃ t, exec (.ldVxNn 0x5#4 0x12#8) State.reset = .next t ∧ transfersControl (.ldVxNn 0x5#4 0x12#8) = false ∧
      State.reset.fault = none ∧ t.fault = none ∧ 0x4#4 ∉ writesV (.ldVxNn 0x5#4 0x12#8) :=
  ⟨_, rfl, rfl, rfl, rfl, by decide⟩

/-- SpinRepeatsForever: a jump to itself at 0x200 (vector C3) and at the last address a jump reaches and is fetched
from. -/
theorem witness_SpinRepeatsForever :
    ((ready 0x200#16 0x1200 []).spin ∧ (ready 0x200#16 0x1200 []).schedule = []) ∧
    ((ready 0xFFD#16 0x1FFD []).spin ∧ (ready 0xFFD#16 0x1FFD []).schedule = []) :=
  ⟨⟨⟨rfl, rfl, by decide, by rfl⟩, rfl⟩, ⟨⟨rfl, rfl, by decide, by rfl⟩, rfl⟩⟩

/-- UnoccupiedEntriesUnobservable: the first unoccupied entry, and the last entry. -/
theorem witness_UnoccupiedEntriesUnobservable :
    State.reset.sp.val ≤ 0 ∧ (withStack State.reset 11 10 0x202#16).sp.val ≤ 11 := by decide

/-- CanonicalMemoryIsUnique: a memory in canonical form that lists something. -/
theorem witness_CanonicalMemoryIsUnique :
    Memory.wf [(0x000, 0x00#8), (0xFFF, 0x01#8)] = true ∧
      ∀ a, Memory.read [(0x000, 0x00#8), (0xFFF, 0x01#8)] a = Memory.read [(0x000, 0x00#8), (0xFFF, 0x01#8)] a :=
  ⟨by decide, fun _ => rfl⟩

end Sys2Proof.Tests
end

section
/-! The execute phase is total (00_scope.md R12, 30_encoding.md R51). Only RET, CALL and DRW have a meaning with more than
one outcome; each of those outcomes, a raised exception included, is a next state. -/

namespace Sys2Proof.Machine

/-- RET (R55): StackUnderflow on an empty stack, else a pop. -/
theorem execRet_next (s : State) : ∃ t, execRet s = .next t := by
  rcases Nat.eq_zero_or_pos s.sp.val with hempty | hpop
  · exact ⟨_, execRet_empty hempty⟩
  · exact ⟨_, execRet_pop hpop⟩

/-- CALL (R57): a push, or StackOverflow on a full stack. -/
theorem execCall_next (nnn : Addr12) (s : State) : ∃ t, execCall nnn s = .next t := by
  rcases Nat.lt_or_eq_of_le (Nat.le_of_lt_succ s.sp.isLt) with hpush | hfull
  · exact ⟨_, execCall_push nnn hpush⟩
  · exact ⟨_, execCall_full nnn hfull⟩

/-- DRW (R77, R80): the drawn display, or AddressOutOfRange at the first unreadable row. -/
theorem execDrw_next (x y n : Nibble) (s : State) : ∃ t, execDrw x y n s = .next t := by
  rcases spriteReadable_or s y n with hreadable | ⟨j, hrow, hscreen, habove, hfirst⟩
  · obtain ⟨d, hit, hdraw, -⟩ := execDrw_ok (x := x) hreadable
    exact ⟨_, hdraw⟩
  · exact ⟨_, execDrw_error hrow hscreen habove hfirst⟩

/-- Settles O9, by cases on the instruction: RET, CALL and DRW by their outcomes, every other meaning is one `.next`. -/
theorem everyInstructionAnswersNext : Obligations.EveryInstructionAnswersNext := by
  intro i s
  cases i with
  | ret => exact execRet_next s
  | call nnn => exact execCall_next nnn s
  | drw x y n => exact execDrw_next x y n s
  | _ => exact ⟨_, rfl⟩

end Sys2Proof.Machine
end

section
/-! What an instruction writes, element by element (10_state.md R16 to R26, 20_memory.md R38): one frame fact per element,
over the effects of `Effect`. -/

namespace Sys2Proof.Machine

variable {i : Instr} {s t : State}

/-- No instruction writes memory (20_memory.md R38). -/
theorem Effect.mem_eq (h : Effect s i t) : t.mem = s.mem := by
  cases h with
  | skip _ c => exact s.advance.skipIf_mem c
  | _ => rfl

/-- Only ANNN writes I (10_state.md R17). -/
theorem Effect.i_eq (h : Effect s i t) (hi : ∀ nnn, i ≠ .ldINnn nnn) : t.i = s.i := by
  cases h with
  | index nnn => exact absurd rfl (hi nnn)
  | skip _ c => exact s.advance.skipIf_i c
  | _ => rfl

/-- Only CALL and RET write the stack and SP (10_state.md R20, R21). -/
theorem Effect.sameStack (h : Effect s i t) (hcall : ∀ nnn, i ≠ .call nnn) (hret : i ≠ .ret) : SameStack s t := by
  cases h with
  | push nnn _ => exact absurd rfl (hcall nnn)
  | pop _ => exact absurd rfl hret
  | skip _ c => exact ⟨s.advance.skipIf_stack c, s.advance.skipIf_sp c⟩
  | _ => exact ⟨rfl, rfl⟩

/-- Only CLS and DRW write the display (10_state.md R23). -/
theorem Effect.disp_eq (h : Effect s i t) (hcls : i ≠ .cls) (hdrw : ∀ x y n, i ≠ .drw x y n) : t.disp = s.disp := by
  cases h with
  | clear => exact absurd rfl hcls
  | draw x y n => exact absurd rfl (hdrw x y n)
  | skip _ c => exact s.advance.skipIf_disp c
  | _ => rfl

/-- No instruction writes the keypad, a timer, the run-state or the schedule (10_state.md R24 to R26). -/
theorem Effect.sameDevices (h : Effect s i t) : SameDevices s t := by
  cases h with
  | skip _ c => cases c <;> exact ⟨rfl, rfl, rfl, rfl, rfl⟩
  | _ => exact ⟨rfl, rfl, rfl, rfl, rfl⟩

/-- The registers written are those of the instruction's row (10_state.md R16). -/
theorem Effect.sameVBut (h : Effect s i t) : SameVBut (writesV i) s t := by
  intro r hr
  cases h with
  | @plain _ _ x hw b =>
    have hx : r ≠ x := by simpa [hw] using hr
    exact State.getV_setV_other _ b hx
  | @flagged _ _ x hw b f =>
    obtain ⟨hx, hVF⟩ : r ≠ x ∧ r ≠ regVF := by simpa [hw] using hr
    simp [State.getV_setResultFlag, hVF, hx]
  | draw x y n _ d hit =>
    have hVF : r ≠ regVF := by simpa [writesV, regVF] using hr
    exact State.getV_setV_other _ _ hVF
  | skip _ c => exact s.advance.getV_skipIf c r
  | _ => rfl

/-- The skips are among the instructions that transfer control. -/
theorem transfersControl_of_isSkip (h : isSkip i = true) : transfersControl i = true := by
  cases i with
  | seVxNn | sneVxNn | seVxVy | sneVxVy => rfl
  | _ => cases h

/-- An instruction that transfers no control advances PC, unless it raises (10_state.md R18). -/
theorem Effect.pc_sequential (h : Effect s i t) (hseq : transfersControl i = false) :
    t.pc = s.pc + 2#16 ∨ ∃ r, t.fault = some r := by
  cases h with
  | jump | pop | push => cases hseq
  | skip hskip => cases (transfersControl_of_isSkip hskip).symm.trans hseq
  | underflow | overflow | outOfRange => exact .inr ⟨_, rfl⟩
  | _ => exact .inl rfl

/-- Settles O41, by the effect's frame on V. -/
theorem onlyListedRegistersWritten : Obligations.OnlyListedRegistersWritten :=
  fun _ _ _ h => (exec_effect h).sameVBut

/-- Settles O42, element by element. -/
theorem onlyTheirWritersChangeState : Obligations.OnlyTheirWritersChangeState := by
  intro i s t h
  have he := exec_effect h
  refine ⟨he.i_eq, he.sameStack, fun hcls hdrw y x => ?_, he.sameDevices, fun a => ?_⟩
  · rw [he.disp_eq hcls hdrw]
  · rw [he.mem_eq]

/-- Settles O43: a raise is excluded by the absence of a record, and PC is added to mod 2^16. -/
theorem sequentialInstructionsAdvancePc : Obligations.SequentialInstructionsAdvancePc := by
  intro i s t h hseq _ hnone
  rcases (exec_effect h).pc_sequential hseq with hpc | ⟨r, hsome⟩
  · rw [hpc, BitVec.toNat_add]; rfl
  · cases hnone.symm.trans hsome

end Sys2Proof.Machine
end

section
/-! The invariant of the machine (10_state.md R17, R18; 60_exceptions.md R94, R95) over one step: each of its parts over the
effects of an instruction, and the steps of the other agents, which write none of the elements it speaks of. -/

namespace Sys2Proof.Machine

variable {i : Instr} {s t : State}

/-- The addresses of instructions are at most 0xFFF (30_encoding.md R46). -/
theorem toNat_zext16_le (nnn : Addr12) : (zext16 nnn).toNat ≤ 0xFFF := by
  simp only [zext16, BitVec.toNat_ofNat]; omega

/-- Where a word was fetched, the next one is at 0x1000 at most (20_memory.md R37). -/
theorem toNat_add_two_le {pc : Word} (h : pc.toNat < 4095) : (pc + 2#16).toNat ≤ 0x1000 := by
  simp only [BitVec.toNat_add, BitVec.toNat_ofNat]; omega

/-- I stays at most 0xFFF (10_state.md R17). -/
theorem Effect.index_le (h : Effect s i t) (hI : s.i.toNat ≤ 0xFFF) : t.i.toNat ≤ 0xFFF := by
  cases h with
  | index nnn => exact toNat_zext16_le nnn
  | skip _ c => rwa [State.skipIf_i]
  | _ => exact hI

/-- PC after an instruction that was fetched: at most 0x1000, or 2 more after a skip taken from there (10_state.md R18). -/
theorem Effect.counter_le (h : Effect s i t) (hs : s.Inv) (hfetch : s.pc.toNat < 4095) : t.pc.toNat ≤ 0x1002 := by
  have hnext := toNat_add_two_le hfetch
  have hjump := fun nnn => (toNat_zext16_le nnn).trans (show 0xFFF ≤ 0x1002 by decide)
  cases h with
  | jump nnn | push nnn => exact hjump nnn
  | pop hpos => exact (hs.returns (s.sp.val - 1) (by omega) (by omega)).trans (by decide)
  | underflow | overflow | outOfRange => exact hs.counter
  | skip _ c =>
    rw [State.skipIf_pc, State.advance_pc]
    split
    · simp only [BitVec.toNat_add, BitVec.toNat_ofNat] at hnext ⊢; omega
    · exact hnext.trans (by decide)
  | _ => exact hnext.trans (by decide)

/-- The occupied entries stay at most 0x1000: a call pushes the advanced PC, a return only vacates (10_state.md R18, R20). -/
theorem Effect.returns_le (h : Effect s i t) (hs : s.Inv) (hfetch : s.pc.toNat < 4095) :
    ∀ k (hk : k < 12), k < t.sp.val → (t.stack[k]'hk).toNat ≤ 0x1000 := by
  intro k hk hocc
  cases h with
  | push nnn hfree =>
    change k < s.sp.val + 1 at hocc
    rw [Vector.getElem_set]
    split
    · exact toNat_add_two_le hfetch
    · exact hs.returns k hk (by omega)
  | pop hpos =>
    change k < s.sp.val - 1 at hocc
    exact hs.returns k hk (by omega)
  | skip _ c =>
    simp only [State.skipIf_stack, State.skipIf_sp] at hocc ⊢
    exact hs.returns k hk hocc
  | _ => exact hs.returns k hk hocc

/-- The record that an instruction writes is well-formed (60_exceptions.md R95) and holds the PC of the instruction, which
the raise does not move (60_exceptions.md R94). -/
theorem Effect.precise (h : Effect s i t) (hnone : s.fault = none) :
    ∀ r, t.fault = some r → r.pc = t.pc ∧ r.wellFormed = true := by
  intro r hr
  cases h with
  | underflow | overflow => cases hr; exact ⟨rfl, rfl⟩
  | outOfRange x y n _ _ habove =>
    cases hr
    exact ⟨rfl, by simpa [FaultRecord.wellFormed] using Nat.lt_of_succ_le habove⟩
  | skip _ c => rw [State.skipIf_fault] at hr; cases hnone.symm.trans hr
  | _ => cases hnone.symm.trans hr

/-- An instruction that was fetched keeps the invariant. -/
theorem Effect.inv (h : Effect s i t) (hs : s.Inv) (hnone : s.fault = none) (hfetch : s.pc.toNat < 4095) : t.Inv where
  memory := h.mem_eq ▸ hs.memory
  index := h.index_le hs.index
  counter := h.counter_le hs hfetch
  returns := h.returns_le hs hfetch
  precise := h.precise hnone

/-- A fetch fault keeps the invariant: its record holds the address, which is above 0xFFF, and no opcode
(60_exceptions.md R95). -/
theorem State.Inv.raise_fetch (hs : s.Inv) {a : Nat} (ha : 0xFFF < a) :
    (s.raise (.addressOutOfRange .fetch) none (some a)).Inv where
  memory := hs.memory
  index := hs.index
  counter := hs.counter
  returns := hs.returns
  precise := by
    intro r hr
    cases hr
    exact ⟨rfl, by simpa [FaultRecord.wellFormed] using ha⟩

/-- The instruction step keeps the invariant: PC decides between the instruction and the fetch fault. -/
theorem instructionStep_keeps_inv (hs : s.Inv) (hnone : s.fault = none) (h : instructionStep s = .next t) : t.Inv := by
  by_cases hfetch : s.pc.toNat < 4095
  · rw [instructionStep_ok (State.fetch_ok hfetch)] at h
    exact (exec_effect h).inv hs hnone hfetch
  · rw [instructionStep_error (State.fetch_error (by omega))] at h
    cases h
    exact hs.raise_fetch (by split <;> omega)

/-- An enabled step of any agent keeps the invariant: the tick and the host's events write none of its elements. -/
theorem act_keeps_inv {a : Action} (hs : s.Inv) (hnone : s.fault = none) (h : act a s = .next t) : t.Inv := by
  cases a with
  | instruction => exact instructionStep_keeps_inv hs hnone h
  | tick | setKey | togglePause | quit => cases h; exact ⟨hs.memory, hs.index, hs.counter, hs.returns, hs.precise⟩

/-- The invariant does not speak of the schedule. -/
theorem State.Inv.setSchedule (hs : s.Inv) (l : List Action) : (s.setSchedule l).Inv :=
  ⟨hs.memory, hs.index, hs.counter, hs.returns, hs.precise⟩

/-- Settles O38, by the kinds of step: the scheduled one is performed, or dropped without effect. -/
theorem stepKeepsInvariant : Obligations.StepKeepsInvariant := by
  intro s t hs h
  obtain ⟨hnone, -, a, l, ⟨-, hact⟩ | ⟨-, rfl⟩⟩ := step_next_cases h
  · exact act_keeps_inv (hs.setSchedule l) hnone hact
  · exact hs.setSchedule l

end Sys2Proof.Machine
end

section
/-! What no instruction observes: the keypad, the timers and the unoccupied stack entries (10_state.md R20, R24, R25). RET, CALL
and DRW are followed through their outcomes; every other meaning commutes with the change by definition. -/

namespace Sys2Proof.Machine

variable {i : Instr} {s t : State} {x y n : Nibble}

/-- The sprite loop of `DRW x, y, n` (43_display.md R77) in the state the step begins in. -/
def State.drawLoop (s : State) (x y n : Nibble) : Except Nat Canvas :=
  drawRows s.mem s.i.toNat (s.startX x) (s.startY y) n.toNat 0 ⟨s.disp, false⟩

/-- DRW whose loop ends with an address above 0xFFF. -/
theorem execDrw_of_drawLoop_error {a : Nat} (h : s.drawLoop x y n = .error a) :
    execDrw x y n s = .next (s.raise (.addressOutOfRange .sprite) (some (encode (.drw x y n))) (some a)) := by
  unfold State.drawLoop State.startX State.startY at h
  unfold execDrw
  rw [h]

/-- DRW whose loop draws every row. -/
theorem execDrw_of_drawLoop_ok {c : Canvas} (h : s.drawLoop x y n = .ok c) :
    execDrw x y n s = .next ((s.advance.setDisp c.disp).setV regVF (flagByte c.hit)) := by
  unfold State.drawLoop State.startX State.startY at h
  unfold execDrw
  rw [h]

/-! ## The elements an instruction does not read -/

/-- The state with other values in the elements that no instruction but CALL and RET reads. -/
def State.withUnread (s : State) (key : Vector Bool 16) (dt st : Byte) (stack : Vector Word 12) : State :=
  { s with key, dt, st, stack }

theorem State.skipIf_withUnread (s : State) (key : Vector Bool 16) (dt st : Byte) (stack : Vector Word 12) (c : Bool) :
    (s.withUnread key dt st stack).skipIf c = (s.skipIf c).withUnread key dt st stack := by
  cases c <;> rfl

/-- Other values of the keypad, the timers and the stack stay as they are over an instruction other than CALL and RET, and
change nothing else. -/
theorem exec_withUnread (hcall : ∀ nnn, i ≠ .call nnn) (hret : i ≠ .ret) (key : Vector Bool 16) (dt st : Byte)
    (stack : Vector Word 12) (h : exec i s = .next t) :
    exec i (s.withUnread key dt st stack) = .next (t.withUnread key dt st stack) := by
  cases i with
  | ret => exact absurd rfl hret
  | call nnn => exact absurd rfl (hcall nnn)
  | drw x y n =>
    rcases hloop : s.drawLoop x y n with a | c
    · cases (execDrw_of_drawLoop_error hloop).symm.trans h; exact execDrw_of_drawLoop_error hloop
    · cases (execDrw_of_drawLoop_ok hloop).symm.trans h; exact execDrw_of_drawLoop_ok hloop
  | seVxNn | sneVxNn | seVxVy | sneVxVy =>
    cases h; exact congrArg Host.Outcome.next (s.advance.skipIf_withUnread key dt st stack _)
  | _ => cases h; rfl

/-- Other values of the keypad and the timers stay as they are over every instruction, and change nothing else
(10_state.md R24, R25). -/
theorem exec_withDevices (key : Vector Bool 16) (dt st : Byte) (h : exec i s = .next t) :
    exec i (s.withUnread key dt st s.stack) = .next (t.withUnread key dt st t.stack) := by
  cases i with
  | ret =>
    rcases Nat.eq_zero_or_pos s.sp.val with hempty | hpop
    · cases (execRet_empty hempty).symm.trans h
      exact execRet_empty (s := s.withUnread key dt st s.stack) hempty
    · cases (execRet_pop hpop).symm.trans h
      exact execRet_pop (s := s.withUnread key dt st s.stack) hpop
  | call nnn =>
    rcases Nat.lt_or_eq_of_le (Nat.le_of_lt_succ s.sp.isLt) with hpush | hfull
    · cases (execCall_push nnn hpush).symm.trans h
      exact execCall_push (s := s.withUnread key dt st s.stack) nnn hpush
    · cases (execCall_full nnn hfull).symm.trans h
      exact execCall_full (s := s.withUnread key dt st s.stack) nnn hfull
  | _ =>
    obtain ⟨hstack, -⟩ := (exec_effect h).sameStack (by nofun) (by nofun)
    rw [hstack]
    exact exec_withUnread (by nofun) (by nofun) key dt st s.stack h

/-- A key written before an instruction is a key written after it. -/
theorem exec_setKey (k : Nibble) (b : Bool) (h : exec i s = .next t) : exec i (s.setKey k b) = .next (t.setKey k b) := by
  obtain ⟨hkey, hdt, hst, -⟩ := (exec_effect h).sameDevices
  have hs : s.setKey k b = s.withUnread (t.setKey k b).key t.dt t.st s.stack := by
    rw [State.setKey_key, hkey, hdt, hst]; rfl
  rw [hs]
  exact exec_withDevices (t.setKey k b).key t.dt t.st h

/-- Settles O34: the fetch reads memory and PC alone, and the instruction commutes with the keypad write. -/
theorem keypadDoesNotAffectInstructions : Obligations.KeypadDoesNotAffectInstructions := by
  intro s k b
  rcases hfetch : s.fetch with a | op
  · exact ⟨_, instructionStep_error hfetch, instructionStep_error (s := s.setKey k b) hfetch, rfl⟩
  · obtain ⟨t, ht⟩ := everyInstructionAnswersNext (decode op) s
    obtain ⟨hkey, -⟩ := (exec_effect ht).sameDevices
    exact ⟨t, (instructionStep_ok hfetch).trans ht,
      (instructionStep_ok (s := s.setKey k b) hfetch).trans (exec_setKey k b ht), hkey⟩

/-! ## The unoccupied stack entries -/

/-- The second state is the first but for unoccupied stack entries (10_state.md R20). -/
def SameButUnoccupied (s s' : State) : Prop :=
  s' = { s with stack := s'.stack } ∧ ∀ j (hj : j < 12), j < s.sp.val → s'.stack[j]'hj = s.stack[j]'hj

/-- Writing an unoccupied entry. -/
theorem sameButUnoccupied_set (s : State) {k : Nat} (hk : k < 12) (w : Word) (h : s.sp.val ≤ k) :
    SameButUnoccupied s { s with stack := s.stack.set k w hk } :=
  ⟨rfl, fun _ hj hocc => Vector.getElem_set_ne hk hj (by omega)⟩

/-- An instruction leads from states that differ in unoccupied entries to such states: RET reads an occupied entry, CALL
overwrites the first unoccupied one, and the others leave the stack alone. -/
theorem exec_sameButUnoccupied {s' : State} (hsame : SameButUnoccupied s s') (h : exec i s = .next t) :
    ∃ t', exec i s' = .next t' ∧ SameButUnoccupied t t' := by
  obtain ⟨hs', hocc⟩ := hsame
  generalize s'.stack = stack at hs' hocc
  subst hs'
  cases i with
  | ret =>
    rcases Nat.eq_zero_or_pos s.sp.val with hempty | hpop
    · cases (execRet_empty hempty).symm.trans h
      exact ⟨_, execRet_empty (s := { s with stack }) hempty, rfl, hocc⟩
    · cases (execRet_pop hpop).symm.trans h
      refine ⟨_, execRet_pop (s := { s with stack }) hpop, ?_, fun j hj hlt => hocc j hj ?_⟩
      · simp only [hocc (s.sp.val - 1) (by omega) (by omega)]
      · change j < s.sp.val - 1 at hlt
        omega
  | call nnn =>
    rcases Nat.lt_or_eq_of_le (Nat.le_of_lt_succ s.sp.isLt) with hpush | hfull
    · cases (execCall_push nnn hpush).symm.trans h
      refine ⟨_, execCall_push (s := { s with stack }) nnn hpush, rfl, fun j hj hlt => ?_⟩
      change j < s.sp.val + 1 at hlt
      simp only [Vector.getElem_set]
      split
      · rfl
      · exact hocc j hj (by omega)
    · cases (execCall_full nnn hfull).symm.trans h
      exact ⟨_, execCall_full (s := { s with stack }) nnn hfull, rfl, hocc⟩
  | _ =>
    have heffect := exec_effect h
    obtain ⟨hstack, hsp⟩ := heffect.sameStack (by nofun) (by nofun)
    obtain ⟨hkey, hdt, hst, -⟩ := heffect.sameDevices
    refine ⟨_, exec_withUnread (by nofun) (by nofun) s.key s.dt s.st stack h, ?_, fun j hj hlt => ?_⟩
    · rw [← hkey, ← hdt, ← hst]; rfl
    · rw [hsp] at hlt
      simp only [hstack]
      exact hocc j hj hlt

/-- Settles O45: the write is to an unoccupied entry, and the instruction keeps the states alike. -/
theorem unoccupiedEntriesUnobservable : Obligations.UnoccupiedEntriesUnobservable := by
  intro i s k hk w hfree
  obtain ⟨t, ht⟩ := everyInstructionAnswersNext i s
  obtain ⟨t', ht', hsame⟩ := exec_sameButUnoccupied (sameButUnoccupied_set s hk w hfree) ht
  exact ⟨t, t', ht, ht', hsame⟩

end Sys2Proof.Machine
end

section
/-! Memory as data (20_memory.md R31, R38): the canonical form holds nothing that reads do not show, and no step of any agent
writes. -/

namespace Sys2Proof.Machine

/-! ## What the canonical form determines -/

/-- The address at the head of the list is listed. -/
theorem Memory.lookup_cons_same (a : Nat) (b : Byte) (m : Memory) : Memory.lookup ((a, b) :: m) a = some b := if_pos rfl

/-- Every other address is looked up in the rest of the list. -/
theorem Memory.lookup_cons_other {a k : Nat} (b : Byte) (m : Memory) (h : a ≠ k) :
    Memory.lookup ((a, b) :: m) k = m.lookup k := if_neg h

/-- The head's address is the lowest that is listed. -/
theorem Memory.lookup_below_head {lo a k : Nat} {b : Byte} {m : Memory}
    (h : Memory.wfFrom lo ((a, b) :: m) = true) (hk : k < a) : Memory.lookup ((a, b) :: m) k = none := by
  obtain ⟨-, hrest⟩ := (Memory.wfFrom_cons ..).1 h
  exact Memory.lookup_below ((Memory.wfFrom_cons ..).2 ⟨le_rfl, hrest⟩) hk

/-- No byte is listed that an unlisted address reads as. -/
theorem Memory.ne_unlisted_of_lookup {lo k : Nat} {b : Byte} {m : Memory} (h : Memory.wfFrom lo m = true)
    (hk : m.lookup k = some b) : b ≠ Memory.unlisted k := by
  induction m generalizing lo with
  | nil => cases hk
  | cons c m ih =>
    obtain ⟨a, d⟩ := c
    obtain ⟨-, -, hd, hm⟩ := (Memory.wfFrom_cons ..).1 h
    by_cases ha : a = k
    · subst ha
      rw [Memory.lookup_cons_same] at hk
      exact Option.some.inj hk ▸ hd
    · exact ih hm (Memory.lookup_cons_other d m ha ▸ hk)

/-- In the canonical form a read shows whether its address is listed, and with which byte. -/
theorem Memory.lookup_eq_of_read {m : Memory} (h : m.wf = true) (k : Nat) :
    m.lookup k = if m.read k = Memory.unlisted k then none else some (m.read k) := by
  unfold Memory.read
  rcases hk : m.lookup k with _ | b
  · exact (if_pos rfl).symm
  · exact (if_neg (Memory.ne_unlisted_of_lookup h hk)).symm

/-- A list in canonical form is determined by its lookups: the heads have the same address, as the lower of two different
ones would be unlisted in the other list, and the rests agree on it too: neither lists it. -/
theorem Memory.eq_of_lookup_eq {lo lo' : Nat} {m m' : Memory} (h : Memory.wfFrom lo m = true)
    (h' : Memory.wfFrom lo' m' = true) (heq : ∀ k, m.lookup k = m'.lookup k) : m = m' := by
  induction m generalizing lo lo' m' with
  | nil =>
    cases m' with
    | nil => rfl
    | cons c' m' => cases (heq c'.1).trans (Memory.lookup_cons_same c'.1 c'.2 m')
  | cons c m ih =>
    obtain ⟨a, b⟩ := c
    have ha := (heq a).symm.trans (Memory.lookup_cons_same a b m)
    cases m' with
    | nil => cases ha
    | cons c' m' =>
      obtain ⟨a', b'⟩ := c'
      have ha' := (heq a').trans (Memory.lookup_cons_same a' b' m')
      rcases Nat.lt_trichotomy a a' with hlt | rfl | hlt
      · cases ha.symm.trans (Memory.lookup_below_head h' hlt)
      · obtain ⟨-, -, -, hm⟩ := (Memory.wfFrom_cons ..).1 h
        obtain ⟨-, -, -, hm'⟩ := (Memory.wfFrom_cons ..).1 h'
        have hbyte : b' = b := Option.some.inj ((Memory.lookup_cons_same a b' m').symm.trans ha)
        have hrest : m = m' := ih hm hm' fun k => by
          by_cases hk : a = k
          · subst hk
            rw [Memory.lookup_below hm (Nat.lt_succ_self a), Memory.lookup_below hm' (Nat.lt_succ_self a)]
          · exact (Memory.lookup_cons_other b m hk).symm.trans ((heq k).trans (Memory.lookup_cons_other b' m' hk))
        rw [hbyte, hrest]
      · cases ha'.symm.trans (Memory.lookup_below_head h hlt)

/-- Settles O46: the reads determine the lookups, and the lookups the list. -/
theorem canonicalMemoryIsUnique : Obligations.CanonicalMemoryIsUnique := by
  intro m m' h h' hread
  refine Memory.eq_of_lookup_eq h h' fun k => ?_
  rw [Memory.lookup_eq_of_read h, Memory.lookup_eq_of_read h', hread]

/-! ## No step writes memory -/

variable {s t : State}

/-- The instruction step leaves memory alone, whether it executes or its fetch faults. -/
theorem instructionStep_mem (h : instructionStep s = .next t) : t.mem = s.mem := by
  rcases hfetch : s.fetch with a | op
  · cases (instructionStep_error hfetch).symm.trans h
    rfl
  · exact (exec_effect ((instructionStep_ok hfetch).symm.trans h)).mem_eq

/-- An enabled step of any agent leaves memory alone (60_exceptions.md R102, R108, R110). -/
theorem act_mem {a : Action} (h : act a s = .next t) : t.mem = s.mem := by
  cases a with
  | instruction => exact instructionStep_mem h
  | tick | setKey | togglePause | quit => cases h; rfl

/-- A step leaves memory alone: it is an agent's, or it is dropped and takes an entry off the schedule. -/
theorem step_mem (h : step s = .next t) : t.mem = s.mem := by
  obtain ⟨-, -, a, l, ⟨-, hact⟩ | ⟨-, rfl⟩⟩ := step_next_cases h
  · exact (act_mem hact).trans (s.setSchedule_mem l)
  · exact s.setSchedule_mem l

/-- Settles O40: memory is the same data, so it reads the same. -/
theorem noStepWritesMemory : Obligations.NoStepWritesMemory :=
  fun _ _ h => ⟨step_mem h, fun a => congrArg (Memory.read · a) (step_mem h)⟩

/-! ## The word at PC -/

/-- The value of a word of two bytes, high byte first (20_memory.md R34). -/
theorem toNat_wordOfBytes (high low : Byte) : (wordOfBytes high low).toNat = 256 * high.toNat + low.toNat := by
  rw [Nat.mul_comm]
  exact (BitVec.toNat_append high low).trans (shiftLeft_or _ _ 8 low.isLt)

/-- The instruction step with the word of the two bytes at PC (30_encoding.md R47, R48). -/
theorem instructionStep_of_bytes {op : Word} (hpc : s.pc.toNat ≤ 0xFFE)
    (hop : op.toNat = 256 * (s.mem.read s.pc.toNat).toNat + (s.mem.read (s.pc.toNat + 1)).toNat) :
    instructionStep s = exec (decode op) s := by
  have hword : op = wordOfBytes (s.mem.read s.pc.toNat) (s.mem.read (s.pc.toNat + 1)) :=
    BitVec.eq_of_toNat_eq (hop.trans (toNat_wordOfBytes ..).symm)
  rw [hword]
  exact instructionStep_ok (State.fetch_ok (Nat.lt_succ_of_le hpc))

/-- Settles O6: the step is the instruction step, of the state without the entry where one is scheduled; that state has the
same PC and memory. -/
theorem stepRunsDecodedInstruction : Obligations.StepRunsDecodedInstruction := by
  intro s op hrun hnone hpc hop
  refine ⟨fun hsched => ?_, fun rest hsched => ?_⟩
  · exact (step_instruction hrun hnone hsched).trans (instructionStep_of_bytes hpc hop)
  · exact (step_scheduled_instruction hrun hnone hsched).trans
      (instructionStep_of_bytes (s := s.setSchedule rest) hpc hop)

end Sys2Proof.Machine
end

section
/-! Decoding undoes encoding (30_encoding.md R44, R49, R50). The decoder dispatches on the class nibble, so a word whose class,
and where it matters whose low nibble, is known decodes by evaluation; the layouts of Laws/Decode.lean give those fields. -/

namespace Sys2Proof

variable {op : Word} {c n : Nibble}

/-- The decoding of a word whose class nibble is known. -/
theorem decode_of_class (hc : (fields op).opClass = c) : decode op = Fields.select { fields op with opClass := c } :=
  hc ▸ rfl

/-- The decoding of a word whose class nibble and low nibble are known. -/
theorem decode_of_class_n (hc : (fields op).opClass = c) (hn : (fields op).n = n) :
    decode op = Fields.select { fields op with opClass := c, n := n } := hc ▸ hn ▸ rfl

/-! ## The three layouts -/

theorem decode_wordNNN (c : Nibble) (nnn : Addr12) :
    decode (wordNNN c nnn) = Fields.select { fields (wordNNN c nnn) with opClass := c, nnn := nnn } := by
  obtain ⟨hc, hnnn⟩ := fields_wordNNN c nnn
  simp only [decode_of_class hc, hnnn]

theorem decode_wordXNN (c x : Nibble) (nn : Byte) :
    decode (wordXNN c x nn) = Fields.select { fields (wordXNN c x nn) with opClass := c, x := x, nn := nn } := by
  obtain ⟨hc, hx, hnn⟩ := fields_wordXNN c x nn
  simp only [decode_of_class hc, hx, hnn]

theorem decode_wordXYN (c x y n : Nibble) :
    decode (wordXYN c x y n) = Fields.select { fields (wordXYN c x y n) with opClass := c, x := x, y := y, n := n } := by
  obtain ⟨hc, hx, hy, hn⟩ := fields_wordXYN c x y n
  simp only [decode_of_class_n hc hn, hx, hy]

/-! ## Well-formed no-ops -/

/-- Class 0 holds every word but the two that are compared whole (44_no_op.md R84). -/
theorem wellFormed_nop0nnn {nnn : Addr12} :
    (Instr.nop0nnn nnn).wellFormed = true ↔ nnn ≠ 0x0E0#12 ∧ nnn ≠ 0x0EE#12 := by
  simp [Instr.wellFormed]

theorem decodeClass0_of_ne {nnn : Addr12} (hcls : nnn ≠ 0x0E0#12) (hret : nnn ≠ 0x0EE#12) :
    decodeClass0 nnn = .nop0nnn nnn :=
  (if_neg hcls).trans (if_neg hret)

/-- Settles O1, by cases on the instruction: its word has one of the three layouts, whose fields select it. The no-ops of
classes 0, 5 and 9 are selected because well-formedness keeps the implemented words of their class out. -/
theorem decodeInvertsEncode : Obligations.DecodeInvertsEncode := by
  intro i hi
  cases i with
  | cls | ret => rfl
  | jp nnn | call nnn | ldINnn nnn | nopBnnn nnn => exact decode_wordNNN _ nnn
  | seVxNn x nn | sneVxNn x nn | ldVxNn x nn | addVxNn x nn | nopCxnn x nn | nopExnn x nn | nopFxnn x nn =>
    exact decode_wordXNN _ x nn
  | nop0nnn nnn =>
    obtain ⟨hcls, hret⟩ := wellFormed_nop0nnn.1 hi
    exact (decode_wordNNN 0x0#4 nnn).trans (decodeClass0_of_ne hcls hret)
  | nop5xyn x y n => exact (decode_wordXYN 0x5#4 x y n).trans (if_neg (bne_iff_ne.1 hi))
  | nop9xyn x y n => exact (decode_wordXYN 0x9#4 x y n).trans (if_neg (bne_iff_ne.1 hi))
  | drw x y n => exact decode_wordXYN 0xD#4 x y n
  | seVxVy x y | sneVxVy x y | ldVxVy x y | orVxVy x y | andVxVy x y | xorVxVy x y | addVxVy x y | subVxVy x y
  | shrVx x y | subnVxVy x y | shlVx x y | nop8xy8 x y | nop8xy9 x y | nop8xya x y | nop8xyb x y | nop8xyc x y
  | nop8xyd x y | nop8xyf x y => exact decode_wordXYN _ x y _

end Sys2Proof
end

section
/-! Every word is the word of an instruction (30_encoding.md R45, R51), so that decoding drops no bit. -/

namespace Sys2Proof

variable {op : Word} {c : Nibble}

/-! ## A word whose class nibble is known, in each layout -/

theorem wordNNN_of_class (hc : (fields op).opClass = c) : wordNNN c (fields op).nnn = op := hc ▸ word_as_NNN op

theorem wordXNN_of_class (hc : (fields op).opClass = c) : wordXNN c (fields op).x (fields op).nn = op :=
  hc ▸ word_as_XNN op

theorem wordXYN_of_class (hc : (fields op).opClass = c) : wordXYN c (fields op).x (fields op).y (fields op).n = op :=
  hc ▸ word_as_XYN op

/-- `op` is the word of a well-formed instruction. -/
def IsEncoding (op : Word) : Prop := ∃ i : Instr, i.wellFormed = true ∧ encode i = op

/-! ## The classes that hold more than one instruction -/

/-- Class 0 (R49): the two words compared whole, and the rest. -/
theorem isEncoding_class0 (nnn : Addr12) : IsEncoding (wordNNN 0x0#4 nnn) := by
  by_cases hcls : nnn = 0x0E0#12
  · exact ⟨.cls, rfl, hcls ▸ rfl⟩
  by_cases hret : nnn = 0x0EE#12
  · exact ⟨.ret, rfl, hret ▸ rfl⟩
  exact ⟨.nop0nnn nnn, wellFormed_nop0nnn.2 ⟨hcls, hret⟩, rfl⟩

/-- Classes 5 and 9 (R49): the low nibble is 0, or not. -/
theorem isEncoding_class5_class9 (x y n : Nibble) : IsEncoding (wordXYN 0x5#4 x y n) ∧ IsEncoding (wordXYN 0x9#4 x y n) := by
  by_cases hn : n = 0#4
  · subst hn
    exact ⟨⟨.seVxVy x y, rfl, rfl⟩, ⟨.sneVxVy x y, rfl, rfl⟩⟩
  · exact ⟨⟨.nop5xyn x y n, bne_iff_ne.2 hn, rfl⟩, ⟨.nop9xyn x y n, bne_iff_ne.2 hn, rfl⟩⟩

/-- Class 8 (R49, 44_no_op.md R86): one instruction for each low nibble. -/
theorem isEncoding_class8 (x y n : Nibble) : IsEncoding (wordXYN 0x8#4 x y n) := by
  refine ⟨decodeClass8 x y n, ?_⟩
  obtain ⟨⟨n, hn⟩⟩ := n
  interval_cases n <;> exact ⟨rfl, rfl⟩

/-- Every word is the word of a well-formed instruction: the classes 0 to F in their order (R49). -/
theorem every_word_isEncoding (op : Word) : IsEncoding op := by
  rcases hc : (fields op).opClass with ⟨⟨c, hlt⟩⟩
  interval_cases c
  · exact wordNNN_of_class hc ▸ isEncoding_class0 _
  · exact ⟨.jp _, rfl, wordNNN_of_class hc⟩
  · exact ⟨.call _, rfl, wordNNN_of_class hc⟩
  · exact ⟨.seVxNn _ _, rfl, wordXNN_of_class hc⟩
  · exact ⟨.sneVxNn _ _, rfl, wordXNN_of_class hc⟩
  · exact wordXYN_of_class hc ▸ (isEncoding_class5_class9 _ _ _).1
  · exact ⟨.ldVxNn _ _, rfl, wordXNN_of_class hc⟩
  · exact ⟨.addVxNn _ _, rfl, wordXNN_of_class hc⟩
  · exact wordXYN_of_class hc ▸ isEncoding_class8 _ _ _
  · exact wordXYN_of_class hc ▸ (isEncoding_class5_class9 _ _ _).2
  · exact ⟨.ldINnn _, rfl, wordNNN_of_class hc⟩
  · exact ⟨.nopBnnn _, rfl, wordNNN_of_class hc⟩
  · exact ⟨.nopCxnn _ _, rfl, wordXNN_of_class hc⟩
  · exact ⟨.drw _ _ _, rfl, wordXYN_of_class hc⟩
  · exact ⟨.nopExnn _ _, rfl, wordXNN_of_class hc⟩
  · exact ⟨.nopFxnn _ _, rfl, wordXNN_of_class hc⟩

/-- Settles O2: the word is that of some well-formed instruction, which is what it decodes to (O1). -/
theorem encodeInvertsDecode : Obligations.EncodeInvertsDecode := by
  intro op
  obtain ⟨i, hi, rfl⟩ := every_word_isEncoding op
  rw [decodeInvertsEncode i hi]
  exact ⟨hi, rfl⟩

end Sys2Proof
end

section
/-! The opcode map (30_encoding.md R50) against the decoder. A row that selects a word fixes the class nibble, and the low nibble
or the whole word where its mask holds them, and so the instruction; and the word of an implemented instruction is selected by
the row of its mnemonic. -/

namespace Sys2Proof

variable {op : Word} {r q : OpcodeRow} {i : Instr}

theorem OpcodeRow.selects_iff : r.selects op = true ↔ op &&& r.mask = r.pattern := beq_iff_eq

/-! ## From a row to the instruction -/

/-- A row whose mask is the class nibble selects words of the instruction that the decoder has for the class. -/
theorem mnemonic_of_selects_class {name : String} (c : Nibble)
    (hname : ∀ d : Fields, (Fields.select { d with opClass := c }).mnemonic = name)
    (h : OpcodeRow.selects ⟨name, wordXYN c 0#4 0#4 0#4, 0xF000#16⟩ op = true) : (decode op).mnemonic = name := by
  rw [decode_of_class ((selects_F000 op c).1 (OpcodeRow.selects_iff.1 h))]
  exact hname (fields op)

/-- A row whose mask is the class nibble and the low nibble selects words of the instruction that the decoder has for both. -/
theorem mnemonic_of_selects_class_n {name : String} (c n : Nibble)
    (hname : ∀ d : Fields, (Fields.select { d with opClass := c, n := n }).mnemonic = name)
    (h : OpcodeRow.selects ⟨name, wordXYN c 0#4 0#4 n, 0xF00F#16⟩ op = true) : (decode op).mnemonic = name := by
  obtain ⟨hc, hn⟩ := (selects_F00F op c n).1 (OpcodeRow.selects_iff.1 h)
  rw [decode_of_class_n hc hn]
  exact hname (fields op)

/-- A row whose mask is the whole word selects that word alone. -/
theorem mnemonic_of_selects_word {name : String} (w : Word) (hname : (decode w).mnemonic = name)
    (h : OpcodeRow.selects ⟨name, w, 0xFFFF#16⟩ op = true) : (decode op).mnemonic = name := by
  have hop : op = w := BitVec.and_allOnes.symm.trans (OpcodeRow.selects_iff.1 h)
  rwa [hop]

/-- A word that a row selects decodes to the row's instruction, row by row. -/
theorem mnemonic_of_selects : ∀ r ∈ opcodeMap, r.selects op = true → (decode op).mnemonic = r.mnemonic := by
  simp only [opcodeMap, List.forall_mem_cons]
  exact ⟨mnemonic_of_selects_word 0x00E0#16 rfl, mnemonic_of_selects_word 0x00EE#16 rfl,
    mnemonic_of_selects_class 0x1#4 fun _ => rfl, mnemonic_of_selects_class 0x2#4 fun _ => rfl,
    mnemonic_of_selects_class 0x3#4 fun _ => rfl, mnemonic_of_selects_class 0x4#4 fun _ => rfl,
    mnemonic_of_selects_class_n 0x5#4 0x0#4 fun _ => rfl, mnemonic_of_selects_class 0x6#4 fun _ => rfl,
    mnemonic_of_selects_class 0x7#4 fun _ => rfl, mnemonic_of_selects_class_n 0x8#4 0x0#4 fun _ => rfl,
    mnemonic_of_selects_class_n 0x8#4 0x1#4 fun _ => rfl, mnemonic_of_selects_class_n 0x8#4 0x2#4 fun _ => rfl,
    mnemonic_of_selects_class_n 0x8#4 0x3#4 fun _ => rfl, mnemonic_of_selects_class_n 0x8#4 0x4#4 fun _ => rfl,
    mnemonic_of_selects_class_n 0x8#4 0x5#4 fun _ => rfl, mnemonic_of_selects_class_n 0x8#4 0x6#4 fun _ => rfl,
    mnemonic_of_selects_class_n 0x8#4 0x7#4 fun _ => rfl, mnemonic_of_selects_class_n 0x8#4 0xE#4 fun _ => rfl,
    mnemonic_of_selects_class_n 0x9#4 0x0#4 fun _ => rfl, mnemonic_of_selects_class 0xA#4 fun _ => rfl,
    mnemonic_of_selects_class 0xD#4 fun _ => rfl, nofun⟩

/-! ## From the instruction to its row -/

open Laws in
/-- The word of every instruction matches the instruction's row of spec/opcode_table.json. -/
theorem encode_matchesRow : ∀ i, MatchesRow.Statement i
  | .cls => MatchesRow.cls
  | .ret => MatchesRow.ret
  | .jp nnn => MatchesRow.jp nnn
  | .call nnn => MatchesRow.call nnn
  | .seVxNn x nn => MatchesRow.seVxNn x nn
  | .sneVxNn x nn => MatchesRow.sneVxNn x nn
  | .seVxVy x y => MatchesRow.seVxVy x y
  | .ldVxNn x nn => MatchesRow.ldVxNn x nn
  | .addVxNn x nn => MatchesRow.addVxNn x nn
  | .ldVxVy x y => MatchesRow.ldVxVy x y
  | .orVxVy x y => MatchesRow.orVxVy x y
  | .andVxVy x y => MatchesRow.andVxVy x y
  | .xorVxVy x y => MatchesRow.xorVxVy x y
  | .addVxVy x y => MatchesRow.addVxVy x y
  | .subVxVy x y => MatchesRow.subVxVy x y
  | .shrVx x y => MatchesRow.shrVx x y
  | .subnVxVy x y => MatchesRow.subnVxVy x y
  | .shlVx x y => MatchesRow.shlVx x y
  | .sneVxVy x y => MatchesRow.sneVxVy x y
  | .ldINnn nnn => MatchesRow.ldINnn nnn
  | .drw x y n => MatchesRow.drw x y n
  | .nop0nnn nnn => MatchesRow.nop0nnn nnn
  | .nop5xyn x y n => MatchesRow.nop5xyn x y n
  | .nop8xy8 x y => MatchesRow.nop8xy8 x y
  | .nop8xy9 x y => MatchesRow.nop8xy9 x y
  | .nop8xya x y => MatchesRow.nop8xya x y
  | .nop8xyb x y => MatchesRow.nop8xyb x y
  | .nop8xyc x y => MatchesRow.nop8xyc x y
  | .nop8xyd x y => MatchesRow.nop8xyd x y
  | .nop8xyf x y => MatchesRow.nop8xyf x y
  | .nop9xyn x y n => MatchesRow.nop9xyn x y n
  | .nopBnnn nnn => MatchesRow.nopBnnn nnn
  | .nopCxnn x nn => MatchesRow.nopCxnn x nn
  | .nopExnn x nn => MatchesRow.nopExnn x nn
  | .nopFxnn x nn => MatchesRow.nopFxnn x nn

/-- The row of an instruction: its mnemonic, with the match and the mask of spec/opcode_table.json. -/
def Instr.opcodeRow (i : Instr) : OpcodeRow := ⟨i.mnemonic, (Laws.MatchesRow.row i).2, (Laws.MatchesRow.row i).1⟩

/-- An instruction's row selects its word. -/
theorem Instr.opcodeRow_selects (i : Instr) : i.opcodeRow.selects (encode i) = true :=
  OpcodeRow.selects_iff.2 (encode_matchesRow i)

/-- The opcode map lists the row of every implemented instruction. -/
theorem Instr.opcodeRow_mem (hi : i.implemented = true) : i.opcodeRow ∈ opcodeMap := by
  cases i with
  | nop0nnn | nop5xyn | nop8xy8 | nop8xy9 | nop8xya | nop8xyb | nop8xyc | nop8xyd | nop8xyf | nop9xyn | nopBnnn | nopCxnn
  | nopExnn | nopFxnn => cases hi
  | _ => simp [opcodeRow, mnemonic, Laws.MatchesRow.row, opcodeMap]

/-- The opcode map lists no mnemonic of a no-op space. -/
theorem Instr.implemented_of_mnemonic (hr : r ∈ opcodeMap) (hname : i.mnemonic = r.mnemonic) : i.implemented = true := by
  have hmem : i.mnemonic ∈ opcodeMap.map (·.mnemonic) := List.mem_map.2 ⟨r, hr, hname.symm⟩
  cases i with
  | nop0nnn | nop5xyn | nop8xy8 | nop8xy9 | nop8xya | nop8xyb | nop8xyc | nop8xyd | nop8xyf | nop9xyn | nopBnnn | nopCxnn
  | nopExnn | nopFxnn => simp [mnemonic, opcodeMap] at hmem
  | _ => rfl

/-- The rows of the opcode map have different mnemonics. -/
theorem row_eq_of_mnemonic_eq : ∀ r ∈ opcodeMap, ∀ q ∈ opcodeMap, r.mnemonic = q.mnemonic → r = q := by decide

/-- A row of the opcode map with an instruction's mnemonic is the instruction's row. -/
theorem Instr.eq_opcodeRow (hr : r ∈ opcodeMap) (hname : i.mnemonic = r.mnemonic) : r = i.opcodeRow :=
  row_eq_of_mnemonic_eq r hr _ (opcodeRow_mem (implemented_of_mnemonic hr hname)) hname.symm

/-! ## Rows and decodings -/

/-- The row of the decoded instruction selects the word, as that is the instruction's word (O2). -/
theorem opcodeRow_decode_selects (op : Word) : (decode op).opcodeRow.selects op = true := by
  obtain ⟨-, hop⟩ := encodeInvertsDecode op
  have h := (decode op).opcodeRow_selects
  rwa [hop] at h

/-- A row selects the words that decode to its instruction. -/
theorem selects_iff_mnemonic (hr : r ∈ opcodeMap) : r.selects op = true ↔ (decode op).mnemonic = r.mnemonic :=
  ⟨mnemonic_of_selects r hr, fun hname => Instr.eq_opcodeRow hr hname ▸ opcodeRow_decode_selects op⟩

/-- No two rows select one word: both would have the mnemonic of its decoding. -/
theorem row_unique (hr : r ∈ opcodeMap) (hq : q ∈ opcodeMap) (hrop : r.selects op = true) (hqop : q.selects op = true) :
    r = q :=
  row_eq_of_mnemonic_eq r hr q hq
    (((selects_iff_mnemonic hr).1 hrop).symm.trans ((selects_iff_mnemonic hq).1 hqop))

/-- The words of the implemented instructions are those that some row selects (44_no_op.md R83). -/
theorem implemented_iff_selected (op : Word) :
    (decode op).implemented = true ↔ ∃ r ∈ opcodeMap, r.selects op = true :=
  ⟨fun hi => ⟨_, Instr.opcodeRow_mem hi, opcodeRow_decode_selects op⟩,
    fun ⟨_, hr, hrop⟩ => Instr.implemented_of_mnemonic hr ((selects_iff_mnemonic hr).1 hrop)⟩

/-- Settles O4, clause by clause. -/
theorem decodeAgreesWithOpcodeMap : Obligations.DecodeAgreesWithOpcodeMap := by
  intro op
  refine ⟨fun r hr => selects_iff_mnemonic hr, fun r hr q hq => row_unique hr hq, ?_⟩
  simpa using not_congr (implemented_iff_selected op)

end Sys2Proof
end

section
/-! The fields of a word as bit ranges (30_encoding.md R44), and the words the spec writes out (R50, 95_test_vectors.md). -/

namespace Sys2Proof

/-- NNN is X followed by NN (R44). -/
theorem fields_nnn_eq_append (op : Word) : (fields op).nnn = (fields op).x ++ (fields op).nn :=
  (BitVec.extractLsb'_append_extractLsb'_eq_extractLsb' (x := op) (show 8 = 0 + 8 from rfl)).symm

/-- NN is Y followed by N (R44). -/
theorem fields_nn_eq_append (op : Word) : (fields op).nn = (fields op).y ++ (fields op).n :=
  (BitVec.extractLsb'_append_extractLsb'_eq_extractLsb' (x := op) (show 4 = 0 + 4 from rfl)).symm

/-- Settles O3: each field is an extraction, whose bits are the word's from its lowest bit on. -/
theorem fieldsByBitPosition : Obligations.FieldsByBitPosition := by
  intro op
  refine ⟨?_, ?_, ?_, ?_, ?_, ?_, fields_nnn_eq_append op, fields_nn_eq_append op⟩ <;> intro k hk <;>
    simp [fields, hk]

/-- Settles O5, by evaluating the decoder on the eight words. -/
theorem specWordsDecode : Obligations.SpecWordsDecode := ⟨rfl, rfl, rfl, rfl, rfl, rfl, rfl, rfl⟩

end Sys2Proof
end

section
/-! The fetch at the end of memory and of a placed word (30_encoding.md R48, 20_memory.md R34). -/

namespace Sys2Proof.Machine

variable {s : State}

/-! ## The fetch fault -/

/-- A raise writes the fault field alone (60_exceptions.md R94). -/
theorem onlyFault_raise (s : State) (c : Cause) (o : Option Word) (a : Option Nat) : OnlyFault s (s.raise c o a) :=
  ⟨rfl, fun _ => rfl, rfl, ⟨rfl, rfl⟩, fun _ _ => rfl, fun _ => rfl, ⟨rfl, rfl, rfl, rfl, rfl⟩⟩

/-- The record of a fetch at `pc` that needs a byte above 0xFFF (60_exceptions.md R93, R95): the first such address, and no
opcode. -/
def fetchFaultRecord (pc : Word) : FaultRecord :=
  ⟨.addressOutOfRange .fetch, pc, none, some (if pc.toNat = 0xFFF then 0x1000 else pc.toNat)⟩

/-- The instruction step with PC at or above 0xFFF records the fetch fault and changes nothing else. -/
theorem instructionStep_fetchFault (hpc : 0xFFF ≤ s.pc.toNat) :
    ∃ t, instructionStep s = .next t ∧ OnlyFault s t ∧ t.fault = some (fetchFaultRecord s.pc) :=
  ⟨_, instructionStep_error (State.fetch_error hpc), onlyFault_raise .., rfl⟩

/-- Settles O7: the step is the instruction step, of the state without the entry where one is scheduled; that state has the
same PC. -/
theorem fetchAboveMemoryFaults : Obligations.FetchAboveMemoryFaults := by
  intro s hrun hnone hpc
  refine ⟨fetchFaultRecord s.pc, rfl, rfl, rfl, rfl, rfl, fun hsched => ?_, fun rest hsched => ?_⟩
  · rw [step_instruction hrun hnone hsched]
    exact instructionStep_fetchFault hpc
  · rw [step_scheduled_instruction hrun hnone hsched]
    exact instructionStep_fetchFault (s := s.setSchedule rest) hpc

/-! ## A placed word -/

/-- A word's two bytes, read back where they were written. -/
theorem Memory.read_writeBytes_bytesOfWord {m : Memory} {a : Nat} (w : Word) (h : m.wf = true) (ha : a ≤ 0xFFE) :
    (m.writeBytes a (bytesOfWord w)).read a = w.extractLsb' 8 8 ∧
      (m.writeBytes a (bytesOfWord w)).read (a + 1) = w.extractLsb' 0 8 := by
  have hfits : a + (bytesOfWord w).length ≤ 4096 := by simp only [bytesOfWord, List.length_cons, List.length_nil]; omega
  constructor <;> rw [Memory.read_writeBytes a _ _ h hfits] <;> simp [bytesOfWord]

/-- The fetch of a placed word. -/
theorem State.fetch_placeWord (w : Word) (h : s.mem.wf = true) (hpc : s.pc.toNat ≤ 0xFFE) :
    (s.placeWord w).fetch = .ok w := by
  obtain ⟨hhigh, hlow⟩ := Memory.read_writeBytes_bytesOfWord w h hpc
  have hfetch : (s.placeWord w).pc.toNat < 4095 := Nat.lt_succ_of_le hpc
  rw [State.fetch_ok hfetch, State.placeWord_pc, State.placeWord_mem, hhigh, hlow, wordOfBytes_bytes]

/-- The step after placing a word executes its decoding: the placed state is RUNNING without a fault, nothing scheduled. -/
theorem step_placeWord (w : Word) (h : s.mem.wf = true) (hpc : s.pc.toNat ≤ 0xFFE) :
    step (s.placeWord w) = exec (decode w) (s.placeWord w) :=
  (step_instruction rfl rfl rfl).trans (instructionStep_ok (State.fetch_placeWord w h hpc))

/-- The two bytes of a word decode as the word. -/
theorem decodeTableWord_eq (nbits w : Nat) : decodeTableWord nbits w = some (decode (tableWord nbits w)) :=
  congrArg (fun u => some (decode u)) (wordOfBytes_bytes (tableWord nbits w))

/-- Settles O8: the placed word is the table's. -/
theorem placedWordRunsNext : Obligations.PlacedWordRunsNext :=
  fun _ nbits w hwf hpc => ⟨step_placeWord (tableWord nbits w) hwf hpc, decodeTableWord_eq nbits w⟩

end Sys2Proof.Machine
end

section
/-! The decoding of a word from its bits under a mask of the opcode map (30_encoding.md R49, R50). -/

namespace Sys2Proof

variable {op : Word}

/-- The class nibble under mask F000 selects. -/
theorem decode_of_mask_F000 (c : Nibble) (h : op &&& 0xF000#16 = wordXYN c 0#4 0#4 0#4) :
    decode op = Fields.select { fields op with opClass := c } :=
  decode_of_class ((selects_F000 op c).1 h)

/-- The class nibble and the low nibble under mask F00F select. -/
theorem decode_of_mask_F00F (c n : Nibble) (h : op &&& 0xF00F#16 = wordXYN c 0#4 0#4 n) :
    decode op = Fields.select { fields op with opClass := c, n := n } := by
  obtain ⟨hc, hn⟩ := (selects_F00F op c n).1 h
  exact decode_of_class_n hc hn

/-- Mask 000F keeps the low nibble. -/
theorem mask_000F (w : Word) : w &&& 0x000F#16 = wordXYN 0#4 0#4 0#4 (fields w).n := by
  conv_lhs => rw [← word_as_XYN w, show 0x000F#16 = wordXYN 0#4 0#4 0#4 0xF#4 from rfl, and_wordXYN]
  simp only [nibble_and_ones, BitVec.and_zero]

theorem low_nibble_ne_zero (h : op &&& 0x000F#16 ≠ 0#16) : (fields op).n ≠ 0#4 := by
  intro hn
  rw [mask_000F, hn] at h
  exact h rfl

/-- Class 5 with a low nibble that is not 0 (44_no_op.md R85). -/
theorem decode_class5_noOp (hc : op &&& 0xF000#16 = 0x5000#16) (hn : op &&& 0x000F#16 ≠ 0#16) :
    decode op = .nop5xyn (fields op).x (fields op).y (fields op).n :=
  (decode_of_mask_F000 0x5#4 hc).trans (if_neg (low_nibble_ne_zero hn))

/-- Class 9 with a low nibble that is not 0 (44_no_op.md R87). -/
theorem decode_class9_noOp (hc : op &&& 0xF000#16 = 0x9000#16) (hn : op &&& 0x000F#16 ≠ 0#16) :
    decode op = .nop9xyn (fields op).x (fields op).y (fields op).n :=
  (decode_of_mask_F000 0x9#4 hc).trans (if_neg (low_nibble_ne_zero hn))

end Sys2Proof
end

section
/-! Control flow (40_control_flow.md): the jump, the skips, the call and the return. -/

namespace Sys2Proof.Machine

/-! ## PC and its frame -/

/-- The target of a jump or a call is its address field (30_encoding.md R46). -/
theorem toNat_zext16 (nnn : Addr12) : (zext16 nnn).toNat = nnn.toNat := by
  simp only [zext16, BitVec.toNat_ofNat]; omega

/-- A write of PC leaves everything else as it is. -/
theorem onlyPc_setPc (s : State) (w : Word) : OnlyPc s (s.setPc w) :=
  ⟨fun _ => rfl, rfl, ⟨rfl, rfl⟩, fun _ _ => rfl, fun _ => rfl, ⟨rfl, rfl, rfl, rfl, rfl⟩, rfl⟩

/-- Settles O10: the advance of PC is overwritten by the target. -/
theorem jpSetsPc : Obligations.JpSetsPc :=
  ⟨fun _ h => decode_of_mask_F000 0x1#4 h,
    fun nnn s => ⟨s.setPc (zext16 nnn), rfl, toNat_zext16 nnn, onlyPc_setPc s _⟩⟩

/-! ## The skips -/

/-- A skip writes PC alone, whether it is taken or not. -/
theorem onlyPc_skip (s : State) (c : Bool) : OnlyPc s (s.advance.skipIf c) := by
  cases c <;> exact onlyPc_setPc s _

/-- PC after a skip: two words on when it is taken, one when it is not (R54). -/
theorem toNat_pc_skip (s : State) (c : Bool) :
    (s.advance.skipIf c).pc.toNat = (s.pc.toNat + if c then 4 else 2) % 2 ^ 16 := by
  rw [State.skipIf_pc, State.advance_pc]
  cases c <;> simp [BitVec.toNat_add, Nat.add_assoc]

/-- Skip on equality, for both forms of the source (R58, R60). -/
theorem skipEqual_next (x : Nibble) (src : Source) (s : State) : ∃ t, skipEqual x src s = .next t ∧ OnlyPc s t ∧
    t.pc.toNat = (s.pc.toNat + if s.getV x = s.value src then 4 else 2) % 2 ^ 16 :=
  ⟨_, rfl, onlyPc_skip s _, by simp only [toNat_pc_skip, beq_iff_eq]⟩

/-- Skip on difference, for both forms of the source (R59, R61). -/
theorem skipNotEqual_next (x : Nibble) (src : Source) (s : State) : ∃ t, skipNotEqual x src s = .next t ∧ OnlyPc s t ∧
    t.pc.toNat = (s.pc.toNat + if s.getV x = s.value src then 2 else 4) % 2 ^ 16 :=
  ⟨_, rfl, onlyPc_skip s _, by simp only [toNat_pc_skip, bne_iff_ne, ne_eq, ite_not]⟩

/-- Settles O13: both compare with the immediate. -/
theorem skipsOnImmediate : Obligations.SkipsOnImmediate :=
  ⟨fun _ h => decode_of_mask_F000 0x3#4 h, fun _ h => decode_of_mask_F000 0x4#4 h,
    fun x nn s => ⟨skipEqual_next x (.imm nn) s, skipNotEqual_next x (.imm nn) s⟩⟩

/-- Settles O14: both compare with the register; the other low nibbles of the two classes decode to no-ops. -/
theorem skipsOnRegisters : Obligations.SkipsOnRegisters := by
  refine ⟨fun _ h => decode_of_mask_F00F 0x5#4 0x0#4 h, fun _ h => decode_of_mask_F00F 0x9#4 0x0#4 h,
    fun op hclass hn s => ⟨s.advance, ?_, rfl, onlyPc_setPc s _⟩,
    fun x y s => ⟨skipEqual_next x (.reg y) s, skipNotEqual_next x (.reg y) s⟩⟩
  rcases hclass with hclass | hclass
  · rw [decode_class5_noOp hclass hn]; rfl
  · rw [decode_class9_noOp hclass hn]; rfl

/-! ## The call and the return -/

/-- What CALL and RET leave unchanged when they succeed: everything beside PC, the stack and SP. -/
def OnlyPcAndStack (s t : State) : Prop :=
  SameV s t ∧ t.i = s.i ∧ SameDisplay s t ∧ SameMemory s t ∧ SameDevices s t ∧ t.fault = s.fault

theorem onlyPcAndStack_update (s : State) (pc : Word) (stack : Vector Word 12) (sp : Fin 13) :
    OnlyPcAndStack s { s with pc, stack, sp } :=
  ⟨fun _ => rfl, rfl, fun _ _ => rfl, fun _ => rfl, ⟨rfl, rfl, rfl, rfl, rfl⟩, rfl⟩

/-- The word of a CALL as a number (30_encoding.md R44). -/
theorem encode_call (nnn : Addr12) : encode (.call nnn) = BitVec.ofNat 16 (0x2000 + nnn.toNat) := by
  apply BitVec.eq_of_toNat_eq
  simp only [encode, toNat_wordNNN, BitVec.toNat_ofNat]
  omega

/-- Settles O11: below 12 entries the push writes the entry at SP alone; at 12 the raise is all. -/
theorem callPushesOrOverflows : Obligations.CallPushesOrOverflows := by
  refine ⟨fun _ h => decode_of_mask_F000 0x2#4 h, fun nnn s hfree => ?_, fun nnn s hfull => ?_⟩
  · exact ⟨_, execCall_push nnn hfree, toNat_zext16 nnn, rfl, Vector.getElem_set_self hfree,
      fun k hk hne => Vector.getElem_set_ne hfree hk hne.symm, onlyPcAndStack_update ..⟩
  · exact ⟨_, _, execCall_full nnn hfull, onlyFault_raise .., rfl, rfl, rfl, rfl, congrArg some (encode_call nnn), rfl⟩

/-- Settles O12: with entries the pop moves SP and writes no entry; with none the raise is all. -/
theorem retPopsOrUnderflows : Obligations.RetPopsOrUnderflows := by
  refine ⟨fun _ h => h ▸ rfl, fun s hpos => ?_, fun s hempty => ?_⟩
  · exact ⟨_, execRet_pop hpos, rfl, Nat.sub_add_cancel hpos, rfl, onlyPcAndStack_update ..⟩
  · exact ⟨_, _, execRet_empty hempty, onlyFault_raise .., rfl, rfl, rfl, rfl, rfl, rfl⟩

/-- Settles O15: the newest entry, which the return pops, is the one that the call pushed (O11, O12). -/
theorem callThenReturnComesBack : Obligations.CallThenReturnComesBack := by
  intro nnn s hfree
  obtain ⟨-, hcall, -⟩ := callPushesOrOverflows
  obtain ⟨-, hret, -⟩ := retPopsOrUnderflows
  obtain ⟨t, ht, htarget, hdeeper, hpushed, hothers, -⟩ := hcall nnn s hfree
  obtain ⟨u, hu, hpopped, hback, hstack, -⟩ := hret t (by omega)
  refine ⟨t, u, ht, htarget, hu, ?_, Fin.ext (by omega), fun k hk hocc => ?_⟩
  · simpa only [hdeeper, Nat.add_sub_cancel, hpushed] using hpopped
  · simpa only [hstack] using hothers k hk (by omega)

end Sys2Proof.Machine
end

section
/-! The register loads (41_register_loads.md): the two writes with an immediate operand and the write of I. -/

namespace Sys2Proof.Machine

/-- The sum is narrowed mod 256 (R63, R71). -/
theorem toNat_sum8 (a b : Byte) : (sum8 a b).toNat = (a.toNat + b.toNat) % 256 := BitVec.toNat_ofNat ..

/-- An advance of PC and a write of V[x]: no other register changes, VF included unless it is V[x]. -/
theorem onlyV_advance_setV (s : State) (x : Nibble) (b : Byte) : OnlyV [x] s (s.advance.setV x b) :=
  ⟨fun _ hr => State.getV_setV_other _ b (List.ne_of_not_mem_cons hr),
    rfl, ⟨rfl, rfl⟩, fun _ _ => rfl, fun _ => rfl, ⟨rfl, rfl, rfl, rfl, rfl⟩, rfl⟩

/-- Settles O16: each advances PC and writes one register, with the immediate or with the sum. -/
theorem loadsAndAddsImmediate : Obligations.LoadsAndAddsImmediate := by
  refine ⟨fun _ h => decode_of_mask_F000 0x6#4 h, fun _ h => decode_of_mask_F000 0x7#4 h, fun x nn s => ⟨?_, ?_⟩⟩
  · exact ⟨s.advance.setV x nn, rfl, State.getV_setV_same .., rfl, onlyV_advance_setV ..⟩
  · refine ⟨s.advance.setV x (sum8 (s.getV x) nn), rfl, ?_, rfl, onlyV_advance_setV ..⟩
    rw [State.getV_setV_same, toNat_sum8]

/-- Settles O17: the advance of PC and the write of I, the address extended with zeros, are all. -/
theorem loadsIndex : Obligations.LoadsIndex :=
  ⟨fun _ h => decode_of_mask_F000 0xA#4 h,
    fun nnn s => ⟨s.advance.setI (zext16 nnn), rfl, toNat_zext16 nnn, rfl, fun _ => rfl, ⟨rfl, rfl⟩, fun _ _ => rfl,
      fun _ => rfl, ⟨rfl, rfl, rfl, rfl, rfl⟩, rfl⟩⟩

end Sys2Proof.Machine
end

section
/-! The ALU and shift unit (42_alu.md): what an operation without a flag and one with a flag write, then the value of
each result and each flag as a number. -/

namespace Sys2Proof.Machine

/-! ## The two shapes of an operation (R66) -/

/-- An advance of PC, a write of V[x] and then one of VF: no other register changes. -/
theorem onlyV_advance_setResultFlag (s : State) (x : Nibble) (b : Byte) (f : Bool) :
    OnlyV [x, regVF] s (s.advance.setResultFlag x b f) := by
  refine ⟨fun r hr => ?_, rfl, ⟨rfl, rfl⟩, fun _ _ => rfl, fun _ => rfl, ⟨rfl, rfl, rfl, rfl, rfl⟩, rfl⟩
  obtain ⟨hx, hVF⟩ : r ≠ x ∧ r ≠ regVF := by simpa using hr
  rw [State.getV_setResultFlag, if_neg hVF, if_neg hx, State.getV_advance]

/-- An operation without a flag writes its result to V[x] alone (R67 to R70). -/
theorem aluPlain_next (x y : Nibble) (result : Byte → Byte → Byte) (s : State) :
    ∃ t, aluPlain x y result s = .next t ∧ t.getV x = result (s.getV x) (s.getV y) ∧
      t.pc = s.pc + 2#16 ∧ OnlyV [x] s t :=
  ⟨_, rfl, State.getV_setV_same .., rfl, onlyV_advance_setV ..⟩

/-- An operation with a flag leaves the flag in VF, and its result in V[x] unless that is VF (R71 to R75). -/
theorem aluFlag_next (x y : Nibble) (result : Byte → Byte → Byte) (flag : Byte → Byte → Bool) (s : State) :
    ∃ t, aluFlag x y result flag s = .next t ∧ t.getV regVF = flagByte (flag (s.getV x) (s.getV y)) ∧
      (x ≠ regVF → t.getV x = result (s.getV x) (s.getV y)) ∧ t.pc = s.pc + 2#16 ∧ OnlyV [x, regVF] s t := by
  refine ⟨_, rfl, ?_, fun hx => ?_, rfl, onlyV_advance_setResultFlag ..⟩
  · rw [State.getV_setResultFlag, if_pos rfl, State.value_reg]
  · rw [State.getV_setResultFlag, if_neg hx, if_pos rfl, State.value_reg]

/-! ## The results -/

/-- A negative difference wraps mod 256 (R65). -/
theorem toNat_diff8 (a b : Byte) : ((diff8 a b).toNat : Int) = (a.toNat - b.toNat : Int) % 256 := by
  rw [diff8, BitVec.toNat_ofInt]
  omega

theorem toNat_shiftRight1 (a : Byte) : (shiftRight1 a).toNat = a.toNat / 2 := by
  rw [shiftRight1, BitVec.toNat_ofNat]
  omega

theorem toNat_shiftLeft1 (a : Byte) : (shiftLeft1 a).toNat = a.toNat * 2 % 256 := BitVec.toNat_ofNat ..

/-! ## The flags -/

theorem flagByte_carry (a b : Byte) : flagByte (carry a b) = if a.toNat + b.toNat > 255 then 0x01#8 else 0x00#8 := by
  simp only [flagByte, carry, decide_eq_true_eq]

theorem flagByte_notBorrow (a b : Byte) : flagByte (notBorrow a b) = if b.toNat > a.toNat then 0x00#8 else 0x01#8 := by
  by_cases hborrow : b.toNat > a.toNat <;> simp [flagByte, notBorrow, hborrow]

theorem toNat_flagByte (f : Bool) : (flagByte f).toNat = f.toNat := by cases f <;> rfl

/-- The bit that a shift right moves out (R74). -/
theorem toNat_flagByte_bit0 (a : Byte) : (flagByte (a.getLsbD 0)).toNat = a.toNat % 2 := by
  rw [toNat_flagByte, BitVec.getLsbD, Nat.toNat_testBit, pow_zero, Nat.div_one]

/-- The bit that a shift left moves out (R75); no bit stands above it. -/
theorem toNat_flagByte_bit7 (a : Byte) : (flagByte (a.getLsbD 7)).toNat = a.toNat / 128 := by
  rw [toNat_flagByte, BitVec.getLsbD, Nat.toNat_testBit]
  omega

/-! ## The instructions -/

/-- Settles O18: each is an operation without a flag, and the bits of its result are those of the bitwise operation. -/
theorem movesAndBitwiseOps : Obligations.MovesAndBitwiseOps := by
  refine ⟨fun _ h => decode_of_mask_F00F 0x8#4 0x0#4 h, fun _ h => decode_of_mask_F00F 0x8#4 0x1#4 h,
    fun _ h => decode_of_mask_F00F 0x8#4 0x2#4 h, fun _ h => decode_of_mask_F00F 0x8#4 0x3#4 h,
    fun x y s => ⟨aluPlain_next x y (fun _ b => b) s, ?_, ?_, ?_⟩⟩
  · obtain ⟨t, hexec, hx, hframe⟩ := aluPlain_next x y (fun a b => a ||| b) s
    exact ⟨t, hexec, fun k => by rw [hx, BitVec.getLsbD_or], hframe⟩
  · obtain ⟨t, hexec, hx, hframe⟩ := aluPlain_next x y (fun a b => a &&& b) s
    exact ⟨t, hexec, fun k => by rw [hx, BitVec.getLsbD_and], hframe⟩
  · obtain ⟨t, hexec, hx, hframe⟩ := aluPlain_next x y (fun a b => a ^^^ b) s
    exact ⟨t, hexec, fun k => by rw [hx, BitVec.getLsbD_xor], hframe⟩

/-- Settles O19: an operation with a flag, whose result is the sum mod 256 and whose flag is the carry. -/
theorem addSetsCarry : Obligations.AddSetsCarry := by
  refine ⟨fun _ h => decode_of_mask_F00F 0x8#4 0x4#4 h, fun x y s => ?_⟩
  obtain ⟨t, hexec, hVF, hx, hframe⟩ := aluFlag_next x y sum8 carry s
  exact ⟨t, hexec, hVF.trans (flagByte_carry ..), fun h => by rw [hx h, toNat_sum8], hframe⟩

/-- Settles O20: operations with a flag, one the other with its operands exchanged. -/
theorem subtractsSetNotBorrow : Obligations.SubtractsSetNotBorrow := by
  refine ⟨fun _ h => decode_of_mask_F00F 0x8#4 0x5#4 h, fun _ h => decode_of_mask_F00F 0x8#4 0x7#4 h,
    fun x y s => ⟨?_, ?_⟩⟩
  · obtain ⟨t, hexec, hVF, hx, hframe⟩ := aluFlag_next x y diff8 notBorrow s
    exact ⟨t, hexec, hVF.trans (flagByte_notBorrow ..), fun h => by rw [hx h, toNat_diff8], hframe⟩
  · obtain ⟨t, hexec, hVF, hx, hframe⟩ := aluFlag_next x y (fun a b => diff8 b a) (fun a b => notBorrow b a) s
    exact ⟨t, hexec, hVF.trans (flagByte_notBorrow ..), fun h => by rw [hx h, toNat_diff8], hframe⟩

/-- Settles O21: operations with a flag, of the old V[x] alone; the flag is the bit that leaves it. -/
theorem shiftsSetBitShiftedOut : Obligations.ShiftsSetBitShiftedOut := by
  refine ⟨fun _ h => decode_of_mask_F00F 0x8#4 0x6#4 h, fun _ h => decode_of_mask_F00F 0x8#4 0xE#4 h,
    fun x y s => ⟨?_, ?_⟩⟩
  · obtain ⟨t, hexec, hVF, hx, hframe⟩ := aluFlag_next x y (fun a _ => shiftRight1 a) (fun a _ => a.getLsbD 0) s
    exact ⟨t, hexec, hVF ▸ toNat_flagByte_bit0 _, fun h => by rw [hx h, toNat_shiftRight1], hframe⟩
  · obtain ⟨t, hexec, hVF, hx, hframe⟩ := aluFlag_next x y (fun a _ => shiftLeft1 a) (fun a _ => a.getLsbD 7) s
    exact ⟨t, hexec, hVF ▸ toNat_flagByte_bit7 _, fun h => by rw [hx h, toNat_shiftLeft1], hframe⟩

end Sys2Proof.Machine
end

section
/-! The display (43_display.md): CLS, and DRW as one XOR of its clipped sprite with the display, whose flag is the collision. -/

namespace Sys2Proof.Machine

variable {s t : State} {x y n : Nibble}

/-- Settles O22: the advance of PC and the cleared display are all. -/
theorem clsClearsDisplay : Obligations.ClsClearsDisplay :=
  ⟨fun _ h => h ▸ rfl,
    fun s => ⟨s.advance.setDisp Display.clear, rfl, fun y x _ _ => Display.pixel_clear y x, rfl, fun _ => rfl, rfl,
      ⟨rfl, rfl⟩, fun _ => rfl, ⟨rfl, rfl, rfl, rfl, rfl⟩, rfl⟩⟩

/-! ## One draw -/

/-- The collision flag as the byte in VF, when `hit` says whether a set sprite bit met a pixel that was on (R81). -/
theorem flagByte_collision {hit : Bool}
    (h : hit = true ↔ ∃ r c, r < 32 ∧ c < 64 ∧ s.drawnBit x y n r c = true ∧ s.disp.pixel r c = true) :
    flagByte hit = 0x01#8 ∧ (∃ r c, r < 32 ∧ c < 64 ∧ s.drawnBit x y n r c = true ∧ s.disp.pixel r c = true) ∨
      flagByte hit = 0x00#8 ∧
        ∀ r c, r < 32 → c < 64 → s.drawnBit x y n r c = true → s.disp.pixel r c = false := by
  cases hit with
  | true => exact .inl ⟨rfl, h.1 rfl⟩
  | false =>
    refine .inr ⟨rfl, fun r c hr hc hbit => Bool.eq_false_of_not_eq_true fun hon => ?_⟩
    exact Bool.false_ne_true (h.2 ⟨r, c, hr, hc, hbit, hon⟩)

/-- Settles O23: the rasterizer's display and flag, and VF is the one register that the draw writes. -/
theorem drwXorsSpriteAndReportsCollision : Obligations.DrwXorsSpriteAndReportsCollision := by
  refine ⟨fun _ h => decode_of_mask_F000 0xD#4 h, fun x y n s hreadable => ?_⟩
  obtain ⟨d, hit, hexec, hpixels, hcollision⟩ := execDrw_ok (x := x) hreadable
  have hVF : ((s.advance.setDisp d).setV regVF (flagByte hit)).getV regVF = flagByte hit := State.getV_setV_same ..
  refine ⟨_, hexec, hpixels, hVF.symm ▸ flagByte_collision hcollision, rfl, fun r hr => ?_, rfl, ⟨rfl, rfl⟩,
    fun _ => rfl, ⟨rfl, rfl, rfl, rfl, rfl⟩, rfl⟩
  exact State.getV_setV_other _ _ (List.ne_of_not_mem_cons hr)

/-- The word of a DRW as a number (30_encoding.md R44). -/
theorem encode_drw (x y n : Nibble) :
    encode (.drw x y n) = BitVec.ofNat 16 (0xD000 + x.toNat * 256 + y.toNat * 16 + n.toNat) := by
  apply BitVec.eq_of_toNat_eq
  simp only [encode, toNat_wordXYN, BitVec.toNat_ofNat]
  omega

/-- Settles O24: the raise is all, with the address of the first unreadable row. -/
theorem drwFaultsOnUnreadableRow : Obligations.DrwFaultsOnUnreadableRow := by
  intro x y n s i hrow hscreen habove hfirst
  exact ⟨_, _, execDrw_error hrow hscreen habove fun j hj => Nat.lt_succ_of_le (hfirst j hj), onlyFault_raise .., rfl, rfl,
    rfl, rfl, congrArg some (encode_drw x y n), rfl⟩

/-! ## Two draws -/

/-- The sprite is placed and read by the coordinate registers, I and memory. -/
theorem State.drawnBit_congr (hx : t.getV x = s.getV x) (hy : t.getV y = s.getV y) (hi : t.i = s.i)
    (hmem : SameMemory s t) (r c : Nat) : t.drawnBit x y n r c = s.drawnBit x y n r c := by
  unfold drawnBit spriteBit startX startY
  rw [hx, hy, hi, hmem]

/-- Whether the drawn rows are readable depends on the row's register and I. -/
theorem State.spriteReadable_congr (hy : t.getV y = s.getV y) (hi : t.i = s.i) :
    t.spriteReadable y n ↔ s.spriteReadable y n := by
  simp only [spriteReadable, startY, hy, hi]

/-- Settles O25, by O23 for each draw: the first changes neither the sprite nor its place, so both XOR the same bits. A
set bit inverts its pixel in the first draw, so the second finds it on exactly where it was off before. -/
theorem drawingTwiceRestoresDisplay : Obligations.DrawingTwiceRestoresDisplay := by
  intro x y n s hxF hyF hreadable
  obtain ⟨-, hdraw⟩ := drwXorsSpriteAndReportsCollision
  obtain ⟨t, ht, htpixels, -, -, hV, hi, -, hmem, -⟩ := hdraw x y n s hreadable
  have hx : t.getV x = s.getV x := hV x (mt List.mem_singleton.1 hxF)
  have hy : t.getV y = s.getV y := hV y (mt List.mem_singleton.1 hyF)
  obtain ⟨u, hu, hupixels, hVF, -⟩ := hdraw x y n t ((State.spriteReadable_congr hy hi).2 hreadable)
  simp only [State.drawnBit_congr hx hy hi hmem] at hupixels hVF
  have hinverted : ∀ r c, r < 32 → c < 64 → s.drawnBit x y n r c = true → t.disp.pixel r c = !s.disp.pixel r c := by
    intro r c hr hc hbit
    rw [htpixels r c hr hc, hbit, Bool.xor_true]
  refine ⟨t, u, ht, hu, Display.ext_pixel fun r c hr hc => ?_, ?_⟩
  · rw [hupixels r c hr hc, htpixels r c hr hc, Bool.xor_assoc, Bool.xor_self, Bool.xor_false]
  · rcases hVF with ⟨hone, r, c, hr, hc, hbit, hon⟩ | ⟨hzero, hmiss⟩
    · exact iff_of_true hone ⟨r, c, hr, hc, hbit, by simpa [hinverted r c hr hc hbit] using hon⟩
    · refine iff_of_false (hzero ▸ by decide) ?_
      rintro ⟨r, c, hr, hc, hbit, hoff⟩
      have hon : t.disp.pixel r c = true := by rw [hinverted r c hr hc hbit, hoff, Bool.not_false]
      exact Bool.false_ne_true ((hmiss r c hr hc hbit).symm.trans hon)

end Sys2Proof.Machine
end

section
/-! The no-op spaces (44_no_op.md): the words of each, and the advance of PC that is the whole effect of a no-op. -/

namespace Sys2Proof

variable {op : Word}

/-- Class 0 beside the two words that are compared whole (R84): the word is its address field, so that field is neither
word's. -/
theorem decode_class0_noOp (hc : op &&& 0xF000#16 = 0x0000#16) (hcls : op ≠ 0x00E0#16) (hret : op ≠ 0x00EE#16) :
    decode op = .nop0nnn (fields op).nnn := by
  have hword : op = wordNNN 0x0#4 (fields op).nnn := (wordNNN_of_class ((selects_F000 op 0x0#4).1 hc)).symm
  exact (decode_of_mask_F000 0x0#4 hc).trans <| decodeClass0_of_ne
    (fun hnnn => hcls <| hword.trans (congrArg (wordNNN 0x0#4) hnnn))
    (fun hnnn => hret <| hword.trans (congrArg (wordNNN 0x0#4) hnnn))

end Sys2Proof

namespace Sys2Proof.Machine

/-- An instruction outside the opcode map is one of the fourteen no-ops, whose effect is the advance of PC (R83). -/
theorem exec_of_not_implemented {i : Instr} (s : State) (h : i.implemented = false) : exec i s = .next s.advance := by
  cases i with
  | nop0nnn | nop5xyn | nop8xy8 | nop8xy9 | nop8xya | nop8xyb | nop8xyc | nop8xyd | nop8xyf | nop9xyn | nopBnnn | nopCxnn
  | nopExnn | nopFxnn => rfl
  | _ => cases h

/-- Settles O26: the mask of each space fixes the fields that select its no-op, and the advance of PC is all. -/
theorem unimplementedWordsAreNoOps : Obligations.UnimplementedWordsAreNoOps :=
  ⟨fun _ => decode_class0_noOp,
    fun _ => decode_class5_noOp,
    fun _ h => decode_of_mask_F00F 0x8#4 0x8#4 h,
    fun _ h => decode_of_mask_F00F 0x8#4 0x9#4 h,
    fun _ h => decode_of_mask_F00F 0x8#4 0xA#4 h,
    fun _ h => decode_of_mask_F00F 0x8#4 0xB#4 h,
    fun _ h => decode_of_mask_F00F 0x8#4 0xC#4 h,
    fun _ h => decode_of_mask_F00F 0x8#4 0xD#4 h,
    fun _ h => decode_of_mask_F00F 0x8#4 0xF#4 h,
    fun _ => decode_class9_noOp,
    fun _ h => decode_of_mask_F000 0xB#4 h,
    fun _ h => decode_of_mask_F000 0xC#4 h,
    fun _ h => decode_of_mask_F000 0xE#4 h,
    fun _ h => decode_of_mask_F000 0xF#4 h,
    fun _ s hi => ⟨s.advance, exec_of_not_implemented s hi, rfl, onlyPc_setPc s _⟩⟩

end Sys2Proof.Machine
end

section
/-! The exceptions of the execute phase (60_exceptions.md R93 to R97): which instructions raise, and what a raise leaves. -/

namespace Sys2Proof.Machine

variable {i : Instr} {s t : State} {r : FaultRecord}

/-- All the ways in which an instruction can raise: each writes the fault field, with the instruction's own word. -/
theorem Effect.raise_cases (h : Effect s i t) (hnone : s.fault = none) (hr : t.fault = some r) :
    (∃ nnn, i = .call nnn ∧ s.sp.val = 12 ∧ t = s.raise .stackOverflow (some (encode i)) none) ∨
    (i = .ret ∧ s.sp.val = 0 ∧ t = s.raise .stackUnderflow (some (encode i)) none) ∨
    (∃ x y n a, i = .drw x y n ∧ ¬ s.spriteReadable y n ∧
      t = s.raise (.addressOutOfRange .sprite) (some (encode i)) (some a)) := by
  cases h with
  | overflow nnn hfull => exact .inl ⟨nnn, rfl, hfull, rfl⟩
  | underflow hempty => exact .inr (.inl ⟨rfl, hempty, rfl⟩)
  | outOfRange x y n hrow hscreen habove =>
    exact .inr (.inr ⟨x, y, n, _, rfl, fun hreadable => Nat.not_le.2 habove (hreadable _ hrow hscreen), rfl⟩)
  | skip _ c => rw [State.skipIf_fault] at hr; cases hnone.symm.trans hr
  | _ => cases hnone.symm.trans hr

/-- Settles O27: the state is the old one with a record that holds the instruction's word, and the record is precise. -/
theorem faultingInstructionCommitsNothing : Obligations.FaultingInstructionCommitsNothing := by
  intro i s t r h hnone hr
  have heffect := exec_effect h
  obtain ⟨hpc, hwf⟩ := heffect.precise hnone r hr
  obtain ⟨c, a, rfl⟩ : ∃ c a, t = s.raise c (some (encode i)) a := by
    rcases heffect.raise_cases hnone hr with ⟨_, -, -, ht⟩ | ⟨-, -, ht⟩ | ⟨_, _, _, _, -, -, ht⟩
    all_goals exact ⟨_, _, ht⟩
  exact ⟨onlyFault_raise .., hpc, Option.some.inj hr ▸ rfl, hwf⟩

/-- Settles O28, by the ways to raise. -/
theorem onlyCallRetDrwRaise : Obligations.OnlyCallRetDrwRaise := by
  intro i s t r h hnone hr
  rcases (exec_effect h).raise_cases hnone hr with
    ⟨nnn, hcall, hfull, rfl⟩ | ⟨hret, hempty, rfl⟩ | ⟨x, y, n, a, hdrw, hunreadable, rfl⟩ <;> cases hr
  · exact .inl ⟨nnn, hcall, hfull, rfl⟩
  · exact .inr (.inl ⟨hret, hempty, rfl⟩)
  · exact .inr (.inr ⟨x, y, n, hdrw, hunreadable, rfl⟩)

end Sys2Proof.Machine
end

section
/-! The steps of the agents (60_exceptions.md R92): when each is enabled, what a scheduled one leads to, and so the tick, the
keypad write, the run-state and the states in which nothing moves. -/

namespace Sys2Proof.Machine

variable {s : State} {a : Action} {l : List Action}

/-! ## When a step is enabled -/

/-- The CPU and the Timer Clock move in RUNNING alone (R103); the instruction step has the tick's condition. -/
theorem State.enables_tick (s : State) : s.enables .tick = true ↔ s.run = .running ∧ s.fault = none := by
  simp [State.enables, and_comm]

/-- The host moves outside QUIT (R108, R110); its pause toggle and its quit have the keypad write's condition. -/
theorem State.enables_setKey (s : State) (k : Nibble) (b : Bool) :
    s.enables (.setKey k b) = true ↔ s.run ≠ .quit ∧ s.fault = none := by
  simp [State.enables, and_comm]

/-- PAUSED enables neither an instruction step nor a tick (R103, R110). -/
theorem State.not_enables_of_paused (h : s.run = .paused) :
    s.enables .instruction = false ∧ s.enables .tick = false := by
  simp [State.enables, h]

/-- No step of any kind is enabled in QUIT or once a fault is recorded (R96, R110). -/
theorem State.enables_eq_false (h : s.run = .quit ∨ s.fault ≠ none) (a : Action) : s.enables a = false := by
  rcases h with hquit | hfault
  · cases a <;> simp [State.enables, hquit]
  · obtain ⟨r, hr⟩ := Option.ne_none_iff_exists'.1 hfault
    cases a <;> simp [State.enables, hr]

/-- Whether a step is enabled does not depend on the schedule. -/
theorem State.enables_setSchedule (s : State) (l : List Action) (a : Action) :
    (s.setSchedule l).enables a = s.enables a := by
  cases a <;> rfl

/-! ## What a scheduled step leads to -/

theorem perform_enabled (h : s.enables a = true) : perform a s = act a s := if_pos h

theorem perform_disabled (h : s.enables a = false) : perform a s = .next s := if_neg (Bool.eq_false_iff.1 h)

/-- A scheduled step that is enabled takes place. -/
theorem step_scheduled_enabled (h : s.enables a = true) (hsched : s.schedule = a :: l) :
    step s = act a (s.setSchedule l) := by
  have hmoves : ¬ (s.run = .quit ∨ s.fault ≠ none) := fun hstop =>
    Bool.false_ne_true ((State.enables_eq_false hstop a).symm.trans h)
  push Not at hmoves
  obtain ⟨hrun, hnone⟩ := hmoves
  exact (step_scheduled hnone hrun hsched).trans (perform_enabled ((s.enables_setSchedule l a).trans h))

/-- A scheduled step that is not enabled is dropped (log entry 3). -/
theorem step_scheduled_disabled (hnone : s.fault = none) (hrun : s.run ≠ .quit) (h : s.enables a = false)
    (hsched : s.schedule = a :: l) : step s = .next (s.setSchedule l) :=
  (step_scheduled hnone hrun hsched).trans (perform_disabled ((s.enables_setSchedule l a).trans h))

/-- A scheduled tick in RUNNING (R102). -/
theorem step_tick (hrun : s.run = .running) (hnone : s.fault = none) (hsched : s.schedule = .tick :: l) :
    step s = .next (s.setSchedule l).tick :=
  step_scheduled_enabled (s.enables_tick.2 ⟨hrun, hnone⟩) hsched

/-- A scheduled pause toggle outside QUIT (R110). -/
theorem step_togglePause (hnone : s.fault = none) (hrun : s.run ≠ .quit) (hsched : s.schedule = .togglePause :: l) :
    step s = .next { s with run := s.run.toggled, schedule := l } :=
  step_scheduled_enabled (by simp [State.enables, hnone, hrun]) hsched

/-- A scheduled quit outside QUIT (R110). -/
theorem step_scheduledQuit (hnone : s.fault = none) (hrun : s.run ≠ .quit) (hsched : s.schedule = .quit :: l) :
    step s = .next { s with run := .quit, schedule := l } :=
  step_scheduled_enabled (by simp [State.enables, hnone, hrun]) hsched

/-- What the Timer Clock and the host write is no part of the CPU. -/
theorem sameCpu_update (s : State) (key : Vector Bool 16) (dt st : Byte) (run : RunState) (schedule : List Action) :
    SameCpu s { s with key, dt, st, run, schedule } :=
  ⟨rfl, fun _ => rfl, rfl, ⟨rfl, rfl⟩, fun _ _ => rfl, fun _ => rfl, rfl⟩

/-! ## The timers -/

/-- The subtraction on numbers is floored at 0, and the difference is a byte (R102). -/
theorem toNat_countDown (b : Byte) : (countDown b).toNat = b.toNat - 1 := by
  rw [countDown, BitVec.toNat_ofNat]
  omega

/-- The sound signal (R109). -/
theorem State.soundOn_iff (s : State) : s.soundOn = true ↔ s.st.toNat ≠ 0 := by
  rw [State.soundOn, bne_iff_ne, ne_eq, ← BitVec.toNat_inj]
  rfl

/-- Settles O30: the tick writes the timers alone; in PAUSED it is not enabled, and so dropped. -/
theorem tickCountsTimersDown : Obligations.TickCountsTimersDown := by
  refine fun s => ⟨s.enables_tick, fun rest hnone hsched => ⟨fun hrun => ?_, fun hpaused => ?_⟩⟩
  · exact ⟨_, step_tick hrun hnone hsched, toNat_countDown s.dt, toNat_countDown s.st, sameCpu_update .., rfl, rfl, rfl⟩
  · obtain ⟨-, htick⟩ := State.not_enables_of_paused hpaused
    exact step_scheduled_disabled hnone (by simp [hpaused]) htick hsched

/-- Settles O31: one less, floored at 0, is not 0 exactly above 1. -/
theorem soundFollowsSoundTimer : Obligations.SoundFollowsSoundTimer := by
  intro s
  refine ⟨s.soundOn_iff, ?_⟩
  rw [s.tick.soundOn_iff, State.tick_st, toNat_countDown]
  omega

/-! ## The host's events -/

/-- Settles O35: the keypad write changes the keypad alone, and there the key of its index. -/
theorem setKeyWritesOneKey : Obligations.SetKeyWritesOneKey := by
  refine fun s k b => ⟨s.enables_setKey k b, fun rest hnone hrun hsched => ?_⟩
  refine ⟨_, step_scheduled_enabled ((s.enables_setKey k b).2 ⟨hrun, hnone⟩) hsched, ?_, fun q hq => ?_,
    sameCpu_update .., rfl, rfl, rfl, rfl⟩
  · exact (State.getKey_setKey ..).trans (if_pos rfl)
  · exact (State.getKey_setKey ..).trans (if_neg hq)

/-- Boot leaves RUNNING, when it creates a machine (70_reset_and_hazards.md R115, R116). -/
theorem run_of_bootWith {initial : State} {glyphs : Vector Byte 80} {rom : List Byte}
    (h : bootWith initial glyphs rom = .next s) : s.run = .running := by
  unfold bootWith at h
  split at h
  · cases h; rfl
  · cases h

/-- Settles O36, row by row. -/
theorem runStateTransitions : Obligations.RunStateTransitions := by
  refine ⟨fun _ _ _ _ => run_of_bootWith, fun s => ⟨fun hnone rest => ⟨?_, ?_, ?_⟩, step_quit, State.enables_eq_false,
    State.not_enables_of_paused⟩⟩
  · intro hsched hrun
    rw [step_togglePause hnone (by simp [hrun]) hsched, hrun, RunState.toggled]
  · intro hsched hpaused
    rw [step_togglePause hnone (by simp [hpaused]) hsched, hpaused, RunState.toggled]
  · exact fun hsched hrun => step_scheduledQuit hnone hrun hsched

/-! ## Nothing moves -/

/-- Settles O29: the record stops the step, and it disables every kind of step, so that performing one has no effect. -/
theorem faultIsTerminal : Obligations.FaultIsTerminal := by
  intro s r hr
  have hdisabled := State.enables_eq_false (s := s) (.inr (by simp [hr]))
  exact ⟨step_faulted hr, fun a => ⟨hdisabled a, perform_disabled (hdisabled a)⟩⟩

/-- Settles O37: the instruction step is not enabled, so it has no effect, scheduled or not. -/
theorem pausedWaitsUnchanged : Obligations.PausedWaitsUnchanged := by
  intro s hnone hpaused
  obtain ⟨hinstruction, htick⟩ := State.not_enables_of_paused hpaused
  have hrun : s.run ≠ .quit := by simp [hpaused]
  refine ⟨hinstruction, htick, fun hsched => ?_, fun rest hsched => ?_⟩
  · exact (step_unscheduled hnone hrun hsched).trans (perform_disabled hinstruction)
  · exact step_scheduled_disabled hnone hrun hinstruction hsched

end Sys2Proof.Machine
end

section
/-! The instruction step and the timers (60_exceptions.md R104): it neither reads nor writes them, nor the schedule, so it
commutes with a write of either and with the tick. -/

namespace Sys2Proof.Machine

variable {i : Instr} {s t : State}

/-! ## The instruction commutes with the write -/

/-- Timers written before an instruction are timers written after it (10_state.md R25). -/
theorem exec_setTimers (d u : Byte) (h : exec i s = .next t) : exec i (s.setTimers d u) = .next (t.setTimers d u) := by
  obtain ⟨hkey, -⟩ := (exec_effect h).sameDevices
  have ht : t.setTimers d u = t.withUnread s.key d u t.stack := by rw [← hkey]; rfl
  rw [ht]
  exact exec_withDevices s.key d u h

theorem State.skipIf_setSchedule (s : State) (l : List Action) (c : Bool) :
    (s.setSchedule l).skipIf c = (s.skipIf c).setSchedule l := by
  cases c <;> rfl

/-- No instruction reads or writes the model's own schedule (log entry 2). -/
theorem exec_setSchedule (l : List Action) (h : exec i s = .next t) :
    exec i (s.setSchedule l) = .next (t.setSchedule l) := by
  cases i with
  | ret =>
    rcases Nat.eq_zero_or_pos s.sp.val with hempty | hpop
    · cases (execRet_empty hempty).symm.trans h; exact execRet_empty (s := s.setSchedule l) hempty
    · cases (execRet_pop hpop).symm.trans h; exact execRet_pop (s := s.setSchedule l) hpop
  | call nnn =>
    rcases Nat.lt_or_eq_of_le (Nat.le_of_lt_succ s.sp.isLt) with hpush | hfull
    · cases (execCall_push nnn hpush).symm.trans h; exact execCall_push (s := s.setSchedule l) nnn hpush
    · cases (execCall_full nnn hfull).symm.trans h; exact execCall_full (s := s.setSchedule l) nnn hfull
  | drw x y n =>
    rcases hloop : s.drawLoop x y n with a | c
    · cases (execDrw_of_drawLoop_error hloop).symm.trans h; exact execDrw_of_drawLoop_error hloop
    · cases (execDrw_of_drawLoop_ok hloop).symm.trans h; exact execDrw_of_drawLoop_ok hloop
  | seVxNn | sneVxNn | seVxVy | sneVxVy =>
    cases h; exact congrArg Host.Outcome.next (s.advance.skipIf_setSchedule l _)
  | _ => cases h; rfl

/-! ## The instruction step -/

theorem instructionStep_next (s : State) : ∃ t, instructionStep s = .next t := by
  rcases hfetch : s.fetch with a | op
  · exact ⟨_, instructionStep_error hfetch⟩
  · rw [instructionStep_ok hfetch]
    exact everyInstructionAnswersNext (decode op) s

/-- The instruction step writes no timer and no run-state, whether it executes or its fetch faults. -/
theorem instructionStep_sameDevices (h : instructionStep s = .next t) : SameDevices s t := by
  rcases hfetch : s.fetch with a | op
  · cases (instructionStep_error hfetch).symm.trans h
    exact ⟨rfl, rfl, rfl, rfl, rfl⟩
  · exact (exec_effect ((instructionStep_ok hfetch).symm.trans h)).sameDevices

/-- A change of state that the fetch does not see, and that every raise and every instruction commutes with, commutes with
the instruction step. -/
theorem instructionStep_commutes {f : State → State} (hfetches : (f s).fetch = s.fetch)
    (hraise : ∀ c o a, (f s).raise c o a = f (s.raise c o a))
    (hexec : ∀ i, exec i s = .next t → exec i (f s) = .next (f t)) (h : instructionStep s = .next t) :
    instructionStep (f s) = .next (f t) := by
  rcases hfetch : s.fetch with a | op
  · cases (instructionStep_error hfetch).symm.trans h
    rw [instructionStep_error (hfetches.trans hfetch), hraise]
  · rw [instructionStep_ok (hfetches.trans hfetch)]
    exact hexec _ ((instructionStep_ok hfetch).symm.trans h)

theorem instructionStep_setTimers (d u : Byte) (h : instructionStep s = .next t) :
    instructionStep (s.setTimers d u) = .next (t.setTimers d u) :=
  instructionStep_commutes (f := (State.setTimers · d u)) rfl (fun _ _ _ => rfl) (fun _ => exec_setTimers d u) h

theorem instructionStep_setSchedule (l : List Action) (h : instructionStep s = .next t) :
    instructionStep (s.setSchedule l) = .next (t.setSchedule l) :=
  instructionStep_commutes (f := (State.setSchedule · l)) rfl (fun _ _ _ => rfl) (fun _ => exec_setSchedule l) h

/-- The tick counts down the same timers before the instruction step and after it. -/
theorem instructionStep_tick (h : instructionStep s = .next t) : instructionStep s.tick = .next t.tick := by
  obtain ⟨-, hdt, hst, -⟩ := instructionStep_sameDevices h
  rw [State.tick, State.tick, hdt, hst]
  exact instructionStep_setTimers _ _ h

/-- A scheduled instruction step leads where the instruction step of the state leads, with the entry taken off. -/
theorem step_setSchedule_instruction (l : List Action) (hrun : s.run = .running) (hnone : s.fault = none)
    (h : instructionStep s = .next t) : step (s.setSchedule (.instruction :: l)) = .next (t.setSchedule l) :=
  (step_scheduled_instruction (s := s.setSchedule (.instruction :: l)) hrun hnone rfl).trans
    (instructionStep_setSchedule (s := s) l h)

/-- A scheduled tick in RUNNING leads to the tick of the state, with the entry taken off. -/
theorem step_setSchedule_tick (l : List Action) (hrun : s.run = .running) (hnone : s.fault = none) :
    step (s.setSchedule (.tick :: l)) = .next (s.tick.setSchedule l) :=
  step_tick (s := s.setSchedule (.tick :: l)) hrun hnone rfl

/-- Settles O32: the instruction step commutes with the write of the timers, and its frame holds them. -/
theorem timersDoNotAffectInstructions : Obligations.TimersDoNotAffectInstructions := by
  intro s d u
  obtain ⟨t, ht⟩ := instructionStep_next s
  obtain ⟨-, hdt, hst, -⟩ := instructionStep_sameDevices ht
  exact ⟨t, ht, instructionStep_setTimers d u ht, hdt, hst⟩

/-- Settles O33: both orders lead to the tick of the instruction step's state. The instruction step raises nothing and leaves
RUNNING, so the tick after it is enabled. -/
theorem tickCommutesWithInstruction : Obligations.TickCommutesWithInstruction := by
  intro s rest hrun hnone hclean
  obtain ⟨t, ht⟩ := instructionStep_next s
  obtain ⟨-, -, -, hruns, -⟩ := instructionStep_sameDevices ht
  refine ⟨t.tick.setSchedule rest, ?_, ?_⟩
  · rw [run_step 1 (step_setSchedule_tick (.instruction :: rest) hrun hnone),
      run_step 0 (step_setSchedule_instruction (s := s.tick) rest hrun hnone (instructionStep_tick ht)), run_zero]
  · rw [run_step 1 (step_setSchedule_instruction (.tick :: rest) hrun hnone ht),
      run_step 0 (step_setSchedule_tick rest (hruns.trans hrun) (hclean t ht)), run_zero]

end Sys2Proof.Machine
end

section
/-! Reset and boot (70_reset_and_hazards.md R115 to R118): what memory reads as where nothing, the font or the ROM was written,
and the invariant of a machine that has not yet moved. -/

namespace Sys2Proof.Machine

variable {initial s : State} {glyphs : Vector Byte 80} {rom : List Byte}

/-! ## Memory at reset -/

/-- The font takes 0x000 to 0x04F (20_memory.md R33). -/
theorem State.map_read_reset_range : (List.range 80).map State.reset.mem.read = font := rfl

/-- Reset lists no byte, and above the font an unlisted byte is zero (decision D5). -/
theorem State.read_reset_above_font {a : Nat} (h : 0x50 ≤ a) : State.reset.mem.read a = 0#8 :=
  List.getD_eq_default font 0#8 h

/-- The reset display is the cleared one (decision D3). -/
theorem State.pixel_reset (y x : Nat) : State.reset.disp.pixel y x = false := Display.pixel_clear y x

/-- Settles O47, element by element; memory as the font and as zero above it. -/
theorem resetHasBootValues : Obligations.ResetHasBootValues :=
  ⟨rfl, rfl, rfl, rfl, fun _ => Vector.getElem_replicate _, rfl, rfl, rfl, fun _ => Vector.getElem_replicate _,
    State.pixel_reset, fun _ _ => Vector.getElem_replicate _, State.map_read_reset_range,
    fun _ => State.read_reset_above_font, rfl⟩

/-! ## Boot -/

/-- A ROM of at most 3584 bytes loads (R116). -/
theorem bootWith_ok (h : rom.length ≤ 3584) : bootWith initial glyphs rom = .next (initial.booted glyphs.toList rom) :=
  if_pos h

/-- A longer ROM creates no machine (R116). -/
theorem bootWith_tooLong (h : 3584 < rom.length) : bootWith initial glyphs rom = .fault (.romTooLong rom.length) :=
  if_neg (Nat.not_le.2 h)

/-- The only state that boot answers is the booted one. -/
theorem eq_booted_of_bootWith (h : bootWith initial glyphs rom = .next s) : s = initial.booted glyphs.toList rom := by
  rcases Nat.lt_or_ge 3584 rom.length with hlong | hfits
  · cases (bootWith_tooLong hlong).symm.trans h
  · cases (bootWith_ok hfits).symm.trans h; rfl

/-- Memory after boot: the ROM from 0x200 (R116), the font below 0x050 (R117), and what it held before elsewhere. -/
theorem State.read_booted (hwf : initial.mem.wf = true) (hrom : rom.length ≤ 3584) (a : Nat) :
    (initial.booted glyphs.toList rom).mem.read a =
      if 0x200 ≤ a ∧ a < 0x200 + rom.length then rom.getD (a - 0x200) 0#8
      else if a < 80 then glyphs.toList.getD a 0#8 else initial.mem.read a := by
  have hfont : glyphs.toList.length = 80 := glyphs.length_toList
  refine (Memory.read_writeBytes 0x200 a rom (Memory.wf_writeBytes 0 _ hwf) (by omega)).trans ?_
  rw [Memory.read_writeBytes 0 a glyphs.toList hwf (by omega), hfont]
  simp

/-- Settles O48: the length decides whether a machine is created, and its memory is read range by range. -/
theorem bootLoadsFontAndRom : Obligations.BootLoadsFontAndRom := by
  refine fun initial glyphs rom => ⟨fun hrom hwf => ⟨_, bootWith_ok hrom, ?_, ?_, ?_, rfl, rfl, rfl, rfl, rfl⟩,
    bootWith_tooLong, fun _ => State.read_reset_above_font⟩
  · intro k hk
    rw [State.read_booted hwf hrom, if_neg (by omega), if_pos hk]
    simp [hk]
  · intro k hk
    rw [State.read_booted hwf hrom, if_pos (by omega), Nat.add_sub_cancel_left]
    simp [hk]
  · intro a hfont hrange
    rw [State.read_booted hwf hrom, if_neg (by omega), if_neg (by omega)]

/-! ## The invariant at the start -/

/-- The booted state has the invariant, whatever ROM and font: the loader keeps the canonical form, the stack is empty and no
record is held. -/
theorem State.inv_booted (hwf : initial.mem.wf = true) (hindex : initial.i.toNat ≤ 0xFFF) (glyphs rom : List Byte) :
    (initial.booted glyphs rom).Inv where
  memory := Memory.wf_writeBytes _ _ (Memory.wf_writeBytes _ _ hwf)
  index := hindex
  counter := show 0x200 ≤ 0x1002 by decide
  returns _ _ hoccupied := absurd hoccupied (Nat.not_lt_zero _)
  precise _ hr := by cases hr

/-- Reset is the boot of no bytes. -/
theorem State.booted_reset_nil : State.reset.booted [] [] = State.reset := rfl

/-- Settles O39: reset and every boot answer a booted state. -/
theorem bootEstablishesInvariant : Obligations.BootEstablishesInvariant := by
  refine ⟨State.booted_reset_nil ▸ State.inv_booted rfl (Nat.zero_le _) [] [], ?_⟩
  intro initial glyphs rom s hwf hindex hboot
  exact eq_booted_of_bootWith hboot ▸ State.inv_booted hwf hindex _ _

end Sys2Proof.Machine
end

section
/-! The spin (70_reset_and_hazards.md R124): a jump to its own address leads to the state it began in. -/

namespace Sys2Proof.Machine

variable {s : State}

/-- Below 0x1000 an address is its low 12 bits (40_control_flow.md R56). -/
theorem zext16_setWidth {pc : Word} (h : pc.toNat ≤ 0xFFF) : zext16 (pc.setWidth 12) = pc := by
  apply BitVec.eq_of_toNat_eq
  rw [toNat_zext16, BitVec.toNat_setWidth]
  omega

/-- The word of a spin is that of the jump to its own address. -/
theorem jumpWord_eq_wordNNN {pc : Word} (h : pc.toNat ≤ 0xFFF) : 0x1000#16 ||| pc = wordNNN 0x1#4 (pc.setWidth 12) := by
  apply BitVec.eq_of_toNat_eq
  have hor : 1 <<< 12 ||| pc.toNat = 1 * 2 ^ 12 + pc.toNat := shiftLeft_or 1 pc.toNat 12 (by omega)
  rw [toNat_wordNNN, BitVec.toNat_setWidth, BitVec.toNat_or]
  refine hor.trans ?_
  simp only [BitVec.toNat_ofNat]
  omega

/-- A jump to PC has no effect. -/
theorem exec_jp_self {nnn : Addr12} (h : zext16 nnn = s.pc) : exec (.jp nnn) s = .next s := by
  change Host.Outcome.next (s.setPc (zext16 nnn)) = .next s
  rw [h]
  rfl

/-- The instruction step of a spin. -/
theorem State.spin.instructionStep_eq (h : s.spin) : instructionStep s = .next s := by
  obtain ⟨-, -, hpc, hfetch⟩ := h
  have haddr : s.pc.toNat ≤ 0xFFF := hpc.trans (by decide)
  rw [instructionStep_ok hfetch, jumpWord_eq_wordNNN haddr, decode_wordNNN]
  exact exec_jp_self (zext16_setWidth haddr)

/-- A state that steps to itself is left by no number of steps. -/
theorem run_of_step_self (h : step s = .next s) (k : Nat) : core.run k s = .next s := by
  induction k with
  | zero => exact run_zero s
  | succ k ih => exact (run_step k h).trans ih

/-- Settles O44: a spin's step is its instruction step, and a fixed point is never left. -/
theorem spinRepeatsForever : Obligations.SpinRepeatsForever := by
  intro s hspin hsched
  have hself := hspin.instructionStep_eq
  obtain ⟨hrun, hnone, -⟩ := hspin
  have hstep : step s = .next s := (step_instruction hrun hnone hsched).trans hself
  exact ⟨hstep, run_of_step_self hstep⟩

end Sys2Proof.Machine
end
